-- ==== Sys2Proof/Word.lean ====
section
/-! DEFINITION. The word types of the block (00_scope.md R7; 10_state.md R20, R22, R24). -/

namespace Sys2Proof

/-- A data register, a memory cell, an immediate `NN`. -/
abbrev Byte := BitVec 8

/-- An instruction word, `I`, `pc`, a call-stack entry. -/
abbrev Word := BitVec 16

/-- The 12-bit address field `NNN`. -/
abbrev Addr12 := BitVec 12

/-- A 4-bit field. -/
abbrev Nibble := BitVec 4

/-- The number of a register `V0`..`VF` (10_state.md R20: every index names a register). -/
abbrev Reg := Fin 16

/-- The number of a key `0`..`F` (10_state.md R31). -/
abbrev Key := Fin 16

end Sys2Proof
end

