-- ==== Sys2Proof/Syntax.lean ====
section
/-! DEFINITION. The instructions: one constructor per row of spec/opcode_table.json. -/

namespace Sys2Proof

/-- The 22 instructions of 00_scope.md R2 and the catch-all row of unrecognized words. -/
inductive Instr where
  /-- `00E0`, clear the display (42_display.md R151). -/
  | cls
  /-- `00EE`, return (40_control_flow.md R103). -/
  | ret
  /-- `1NNN`, jump (R104). -/
  | jp (nnn : Addr12)
  /-- `2NNN`, call (R105). -/
  | call (nnn : Addr12)
  /-- `3XNN`, skip if equal (R106). -/
  | se (x : Reg) (nn : Byte)
  /-- `4XNN`, skip if not equal (R107). -/
  | sne (x : Reg) (nn : Byte)
  /-- `6XNN`, set register (41_register_alu.md R123). -/
  | ldByte (x : Reg) (nn : Byte)
  /-- `7XNN`, add immediate (R124). -/
  | addByte (x : Reg) (nn : Byte)
  /-- `8XY0`, copy (R125). -/
  | ldReg (x y : Reg)
  /-- `8XY1`, bitwise OR (R126). -/
  | orReg (x y : Reg)
  /-- `8XY2`, bitwise AND (R127). -/
  | andReg (x y : Reg)
  /-- `8XY3`, bitwise XOR (R128). -/
  | xorReg (x y : Reg)
  /-- `8XY4`, add with carry flag (R129). -/
  | addReg (x y : Reg)
  /-- `8XY5`, subtract with no-borrow flag (R130). -/
  | subReg (x y : Reg)
  /-- `ANNN`, set index (R131). -/
  | ldI (nnn : Addr12)
  /-- `CXNN`, random AND mask (R133). -/
  | rnd (x : Reg) (nn : Byte)
  /-- `DXYN`, draw sprite (42_display.md R152). -/
  | drw (x y : Reg) (n : Nibble)
  /-- `EX9E`, skip if key pressed (43_keys_timers.md R171). -/
  | skp (x : Reg)
  /-- `EXA1`, skip if key not pressed (R172). -/
  | sknp (x : Reg)
  /-- `FX07`, read delay timer (R173). -/
  | ldVxDt (x : Reg)
  /-- `FX15`, set delay timer (R174). -/
  | ldDtVx (x : Reg)
  /-- `FX18`, set sound timer (R175). -/
  | ldStVx (x : Reg)
  /-- Any other word (44_unrecognized.md R190); it keeps the whole word, which the diagnostic carries. -/
  | unrecognized (w : Word)
  deriving DecidableEq, Repr

/-- The spec's label of the instruction, operands left as letters (30_encoding.md R78). -/
def Instr.label : Instr → String
  | .cls => "CLS"
  | .ret => "RET"
  | .jp _ => "JP NNN"
  | .call _ => "CALL NNN"
  | .se _ _ => "SE VX, NN"
  | .sne _ _ => "SNE VX, NN"
  | .ldByte _ _ => "LD VX, NN"
  | .addByte _ _ => "ADD VX, NN"
  | .ldReg _ _ => "LD VX, VY"
  | .orReg _ _ => "OR VX, VY"
  | .andReg _ _ => "AND VX, VY"
  | .xorReg _ _ => "XOR VX, VY"
  | .addReg _ _ => "ADD VX, VY"
  | .subReg _ _ => "SUB VX, VY"
  | .ldI _ => "LD I, NNN"
  | .rnd _ _ => "RND VX, NN"
  | .drw _ _ _ => "DRW VX, VY, N"
  | .skp _ => "SKP VX"
  | .sknp _ => "SKNP VX"
  | .ldVxDt _ => "LD VX, DT"
  | .ldDtVx _ => "LD DT, VX"
  | .ldStVx _ => "LD ST, VX"
  | .unrecognized _ => ".word"

end Sys2Proof
end

