-- ==== Sys2Proof/WellFormed.lean ====
section
/-! DEFINITION. Well-formed instructions. Every operand field admits all its values (30_encoding.md R72),
so the one thing to check is that the catch-all constructor carries a word of the unrecognized space. -/

namespace Sys2Proof

/-- The unrecognized space as 30_encoding.md R75 lists it, family by family, over the word's bits:
it does not go through the decoder. -/
def unrecognizedWord (w : Word) : Bool :=
  (w &&& 0xF000#16 == 0x0000#16 && w != 0x00E0#16 && w != 0x00EE#16)
  || w &&& 0xF000#16 == 0x5000#16
  || w &&& 0xF000#16 == 0x9000#16
  || w &&& 0xF000#16 == 0xB000#16
  || (w &&& 0xF000#16 == 0x8000#16 && decide (6 ≤ (w &&& 0x000F#16).toNat))
  || (w &&& 0xF000#16 == 0xE000#16
      && w &&& 0x00FF#16 != 0x009E#16 && w &&& 0x00FF#16 != 0x00A1#16)
  || (w &&& 0xF000#16 == 0xF000#16
      && w &&& 0x00FF#16 != 0x0007#16 && w &&& 0x00FF#16 != 0x0015#16 && w &&& 0x00FF#16 != 0x0018#16)

/-- Whether the term is an instruction the hardware has. -/
def Instr.wellFormed : Instr → Bool
  | .cls => true
  | .ret => true
  | .jp _ => true
  | .call _ => true
  | .se _ _ => true
  | .sne _ _ => true
  | .ldByte _ _ => true
  | .addByte _ _ => true
  | .ldReg _ _ => true
  | .orReg _ _ => true
  | .andReg _ _ => true
  | .xorReg _ _ => true
  | .addReg _ _ => true
  | .subReg _ _ => true
  | .ldI _ => true
  | .rnd _ _ => true
  | .drw _ _ _ => true
  | .skp _ => true
  | .sknp _ => true
  | .ldVxDt _ => true
  | .ldDtVx _ => true
  | .ldStVx _ => true
  | .unrecognized w => unrecognizedWord w

end Sys2Proof
end

