-- ==== Sys2Proof/Decode.lean ====
section
/-! DEFINITION. The decoder, total on every word and every byte list (30_encoding.md R70 to R77), and the
encoder written from the same table. -/

namespace Sys2Proof

-- The fields of a word (30_encoding.md R71).

/-- `op = w[15:12]`, the family. -/
def opField (w : Word) : Nibble := w.extractLsb' 12 4

/-- `X = w[11:8]`. -/
def xField (w : Word) : Reg := ⟨(w.extractLsb' 8 4).toNat, (w.extractLsb' 8 4).isLt⟩

/-- `Y = w[7:4]`. -/
def yField (w : Word) : Reg := ⟨(w.extractLsb' 4 4).toNat, (w.extractLsb' 4 4).isLt⟩

/-- `N = w[3:0]`. -/
def nField (w : Word) : Nibble := w.extractLsb' 0 4

/-- `NN = w[7:0]`. -/
def nnField (w : Word) : Byte := w.extractLsb' 0 8

/-- `NNN = w[11:0]`. -/
def nnnField (w : Word) : Addr12 := w.extractLsb' 0 12

-- The decode table (30_encoding.md R74): one function per family that sub-classifies.

/-- Family `0x0`: two exact words. -/
def decodeFixed (w : Word) : Instr :=
  if w = 0x00E0#16 then .cls
  else if w = 0x00EE#16 then .ret
  else .unrecognized w

/-- Family `0x8`: the low nibble selects. -/
def decodeRegReg (w : Word) : Instr :=
  if nField w = 0x0#4 then .ldReg (xField w) (yField w)
  else if nField w = 0x1#4 then .orReg (xField w) (yField w)
  else if nField w = 0x2#4 then .andReg (xField w) (yField w)
  else if nField w = 0x3#4 then .xorReg (xField w) (yField w)
  else if nField w = 0x4#4 then .addReg (xField w) (yField w)
  else if nField w = 0x5#4 then .subReg (xField w) (yField w)
  else .unrecognized w

/-- Family `0xE`: the low byte selects. -/
def decodeKeySkip (w : Word) : Instr :=
  if nnField w = 0x9E#8 then .skp (xField w)
  else if nnField w = 0xA1#8 then .sknp (xField w)
  else .unrecognized w

/-- Family `0xF`: the low byte selects. -/
def decodeTimer (w : Word) : Instr :=
  if nnField w = 0x07#8 then .ldVxDt (xField w)
  else if nnField w = 0x15#8 then .ldDtVx (xField w)
  else if nnField w = 0x18#8 then .ldStVx (xField w)
  else .unrecognized w

/-- The decode table by high nibble; families `0x5`, `0x9` and `0xB` are what is left. -/
def decodeWord (w : Word) : Instr :=
  if opField w = 0x0#4 then decodeFixed w
  else if opField w = 0x1#4 then .jp (nnnField w)
  else if opField w = 0x2#4 then .call (nnnField w)
  else if opField w = 0x3#4 then .se (xField w) (nnField w)
  else if opField w = 0x4#4 then .sne (xField w) (nnField w)
  else if opField w = 0x6#4 then .ldByte (xField w) (nnField w)
  else if opField w = 0x7#4 then .addByte (xField w) (nnField w)
  else if opField w = 0x8#4 then decodeRegReg w
  else if opField w = 0xA#4 then .ldI (nnnField w)
  else if opField w = 0xC#4 then .rnd (xField w) (nnField w)
  else if opField w = 0xD#4 then .drw (xField w) (yField w) (nField w)
  else if opField w = 0xE#4 then decodeKeySkip w
  else if opField w = 0xF#4 then decodeTimer w
  else .unrecognized w

-- Bytes (30_encoding.md R70, 20_memory.md R54, R56): most significant byte first.

/-- The word of two bytes, the first at the lower address: `hi * 256 + lo`. -/
def wordOfBytes (hi lo : Byte) : Word := BitVec.ofNat 16 (hi.toNat * 256 + lo.toNat)

/-- The byte at the lower address, `w[15:8]`. -/
def hiByte (w : Word) : Byte := w.extractLsb' 8 8

/-- The byte at the higher address, `w[7:0]`. -/
def loByte (w : Word) : Byte := w.extractLsb' 0 8

/-- Why a byte list holds no instruction: every word decodes (R73), so only a missing byte is left. -/
inductive DecodeError where
  /-- Fewer than the 2 bytes of one instruction. -/
  | truncated
  deriving DecidableEq, Repr

/-- What decoding a byte list gives. -/
inductive Decoded where
  /-- The instruction of the first two bytes, and the bytes after it. -/
  | instr (i : Instr) (rest : List Byte)
  /-- No instruction, and why. -/
  | rejected (e : DecodeError)
  deriving DecidableEq, Repr

/-- Decode the first instruction of a byte list; it always takes exactly 2 bytes (R70, R77). -/
def decodeBytes : List Byte → Decoded
  | hi :: lo :: rest => .instr (decodeWord (wordOfBytes hi lo)) rest
  | [_] => .rejected .truncated
  | [] => .rejected .truncated

-- The encoder, from the layouts of 30_encoding.md R71 and the table of R74.

/-- Format A: `op` in bits 15..12, `NNN` in bits 11..0. -/
def formatA (op : Nibble) (nnn : Addr12) : Word := BitVec.ofNat 16 (op.toNat * 0x1000 + nnn.toNat)

/-- Formats B and D: `op`, `X` in bits 11..8, then a byte (`NN` or the fixed selector) in bits 7..0. -/
def formatB (op : Nibble) (x : Reg) (nn : Byte) : Word :=
  BitVec.ofNat 16 (op.toNat * 0x1000 + x.val * 0x100 + nn.toNat)

/-- Format C: `op`, `X`, `Y` in bits 7..4, `N` in bits 3..0. -/
def formatC (op : Nibble) (x y : Reg) (n : Nibble) : Word :=
  BitVec.ofNat 16 (op.toNat * 0x1000 + x.val * 0x100 + y.val * 0x10 + n.toNat)

/-- The word of an instruction. -/
def encode : Instr → Word
  | .cls => 0x00E0#16
  | .ret => 0x00EE#16
  | .jp nnn => formatA 0x1#4 nnn
  | .call nnn => formatA 0x2#4 nnn
  | .se x nn => formatB 0x3#4 x nn
  | .sne x nn => formatB 0x4#4 x nn
  | .ldByte x nn => formatB 0x6#4 x nn
  | .addByte x nn => formatB 0x7#4 x nn
  | .ldReg x y => formatC 0x8#4 x y 0x0#4
  | .orReg x y => formatC 0x8#4 x y 0x1#4
  | .andReg x y => formatC 0x8#4 x y 0x2#4
  | .xorReg x y => formatC 0x8#4 x y 0x3#4
  | .addReg x y => formatC 0x8#4 x y 0x4#4
  | .subReg x y => formatC 0x8#4 x y 0x5#4
  | .ldI nnn => formatA 0xA#4 nnn
  | .rnd x nn => formatB 0xC#4 x nn
  | .drw x y n => formatC 0xD#4 x y n
  | .skp x => formatB 0xE#4 x 0x9E#8
  | .sknp x => formatB 0xE#4 x 0xA1#8
  | .ldVxDt x => formatB 0xF#4 x 0x07#8
  | .ldDtVx x => formatB 0xF#4 x 0x15#8
  | .ldStVx x => formatB 0xF#4 x 0x18#8
  | .unrecognized w => w

/-- The two bytes of an instruction as memory holds them. -/
def encodeBytes (i : Instr) : List Byte := [hiByte (encode i), loByte (encode i)]

-- The opcode table as data, a second reading of the spec to hold the decoder against.

/-- One row of spec/opcode_table.json: a word is the row's instruction when `w &&& mask = pattern`. -/
structure OpcodeRow where
  label   : String
  pattern : Word
  mask    : Word
  deriving DecidableEq, Repr

/-- The 22 instruction rows of spec/opcode_table.json, in its order. -/
def opcodeTable : List OpcodeRow :=
  [⟨"CLS", 0x00E0#16, 0xFFFF#16⟩, ⟨"RET", 0x00EE#16, 0xFFFF#16⟩,
   ⟨"JP NNN", 0x1000#16, 0xF000#16⟩, ⟨"CALL NNN", 0x2000#16, 0xF000#16⟩,
   ⟨"SE VX, NN", 0x3000#16, 0xF000#16⟩, ⟨"SNE VX, NN", 0x4000#16, 0xF000#16⟩]
  ++
  [⟨"LD VX, NN", 0x6000#16, 0xF000#16⟩, ⟨"ADD VX, NN", 0x7000#16, 0xF000#16⟩,
   ⟨"LD VX, VY", 0x8000#16, 0xF00F#16⟩, ⟨"OR VX, VY", 0x8001#16, 0xF00F#16⟩,
   ⟨"AND VX, VY", 0x8002#16, 0xF00F#16⟩, ⟨"XOR VX, VY", 0x8003#16, 0xF00F#16⟩,
   ⟨"ADD VX, VY", 0x8004#16, 0xF00F#16⟩, ⟨"SUB VX, VY", 0x8005#16, 0xF00F#16⟩]
  ++
  [⟨"LD I, NNN", 0xA000#16, 0xF000#16⟩, ⟨"RND VX, NN", 0xC000#16, 0xF000#16⟩,
   ⟨"DRW VX, VY, N", 0xD000#16, 0xF000#16⟩, ⟨"SKP VX", 0xE09E#16, 0xF0FF#16⟩,
   ⟨"SKNP VX", 0xE0A1#16, 0xF0FF#16⟩, ⟨"LD VX, DT", 0xF007#16, 0xF0FF#16⟩,
   ⟨"LD DT, VX", 0xF015#16, 0xF0FF#16⟩, ⟨"LD ST, VX", 0xF018#16, 0xF0FF#16⟩]

-- The host's numbering of an instruction's bits.

/-- The one word of an instruction given as a table word: bit 0 is its least significant bit, and every
bit at or above `nbits` is 0. -/
def tableWord (nbits w : Nat) : Word := BitVec.ofNat 16 (w % 2 ^ nbits)

/-- What the decoder reads from the bytes of a table word, laid out as memory holds them. -/
def decodeTableWord (nbits w : Nat) : Option Instr :=
  match decodeBytes [hiByte (tableWord nbits w), loByte (tableWord nbits w)] with
  | .instr i _ => some i
  | .rejected _ => none

end Sys2Proof
end

