-- ==== Sys2Proof/Config.lean ====
section
/-! DEFINITION. What the spec leaves to an implementation: the two parameters that change behaviour
(00_scope.md R7) and the free random draw. The parameters' default VALUES stand in
Sys2Proof/Machine/Params.lean. -/

namespace Sys2Proof

/-- `VF_ORDER` (41_register_alu.md R122): which of the two writes of `8XY4` and `8XY5` comes last. -/
inductive VfOrder where
  /-- `VF <- flag`, then `V[X] <- res` (the spec's default). -/
  | flagThenResult
  /-- `V[X] <- res`, then `VF <- flag`. -/
  | resultThenFlag
  deriving DecidableEq, Repr

/-- `SPRITE_BOUND` (42_display.md R153): which sprites are out of range. -/
inductive SpriteBound where
  /-- Fault exactly when a byte outside memory would be read (the spec's default). -/
  | access
  /-- The source's example taken literally: fault when `I + h > 0xFFF`. -/
  | literal
  deriving DecidableEq, Repr

/-- The parameters of one machine, constant while it runs. -/
structure Config where
  vfOrder     : VfOrder
  spriteBound : SpriteBound
  deriving DecidableEq, Repr

/-- `RAND` (41_register_alu.md R132): the byte of the `n`-th random draw, a free value.
It has no body, so nothing can be proved about the value of any draw. -/
opaque Config.randByte : Nat → Byte

end Sys2Proof
end

