-- ==== Sys2Proof/Machine/Params.lean ====
section
/-! DEFINITION. The parameters' values at reset: the spec's defaults (00_scope.md R7). -/

namespace Sys2Proof.Machine

/-- `VF_ORDER`, default `FLAG_THEN_RESULT` (41_register_alu.md R122, 92_eei_decisions.md D8). -/
def defaultVfOrder : VfOrder := .flagThenResult

/-- `SPRITE_BOUND`, default `ACCESS` (42_display.md R153, 92_eei_decisions.md D6). -/
def defaultSpriteBound : SpriteBound := .access

/-- The spec's defaults. -/
def defaultConfig : Config := { vfOrder := defaultVfOrder, spriteBound := defaultSpriteBound }

end Sys2Proof.Machine
end

