-- ==== Sys2Proof/Machine/State.lean ====
section
/-! DEFINITION. The machine's state as plain data (10_state.md), its reset value, and the reasons a step
can stop. -/

namespace Sys2Proof.Machine

/-- The six fault reasons of 60_exceptions.md R200. They name the cause in the fault record, and as the outcome
`.fault` of a step they are raised by ONE thing only: `step` of a block that is already faulted, which
changes no state and returns the recorded code again (R202). All are safe: the spec itself stops there. -/
inductive Fault where
  /-- Code 1: `2NNN` at `sp = 16`. Raised again by a step of the block it faulted; safe. -/
  | stackOverflow
  /-- Code 2: `00EE` at `sp = 0`. Raised again by a step of the block it faulted; safe. -/
  | stackUnderflow
  /-- Code 3: a fetch with `pc + 1 > 0xFFF`. Raised again by a step of the block it faulted; safe. -/
  | fetchOutOfRange
  /-- Code 4: a fetch at an odd `pc`. Raised again by a step of the block it faulted; safe. -/
  | misalignedFetch
  /-- Code 5: `DXYN` whose sprite is out of range. Raised again by a step of the block it faulted; safe. -/
  | spriteOutOfRange
  /-- Code 6: `EX9E` or `EXA1` with `V[X] > 0xF`. Raised again by a step of the block it faulted; safe. -/
  | keyIndexOutOfRange
  deriving DecidableEq, Repr

/-- Why the model gives a step no meaning. -/
inductive Refusal where
  /-- An instruction without a meaning in this model, by its mnemonic. Raised by nobody: every
  instruction has its meaning. Safe. -/
  | notModelled (mnemonic : String)
  deriving DecidableEq, Repr

/-- The fault record (60_exceptions.md R203): the code, the address of the faulting instruction, its word where one was
fetched, the offending address or index where there is one. Addresses are unbounded integers, as in the
spec's pseudocode (00_scope.md §6). -/
structure FaultRecord where
  code : Fault
  pc   : Word
  word : Option Word
  addr : Option Nat
  deriving DecidableEq, Repr

/-- The diagnostic event `Diag(pc, w)` of an unrecognized word (44_unrecognized.md R191). -/
structure Diag where
  pc   : Word
  word : Word
  deriving DecidableEq, Repr

/-- Memory: the cells that do not read as an unlisted address does, addresses strictly rising
(Sys2Proof/Machine/Ops.lean gives its operations and its canonical form). -/
abbrev Memory := List Host.Cell

/-- The display buffer (10_state.md R29): `disp[x][y]`, column `x` in 0..63, row `y` in 0..31. -/
abbrev Display := Vector (Vector Bool 32) 64

/-- The state of the block (10_state.md R20 to R35), and the model's own three fields `cfg`, `draws` and
`diags` (log entries 3, 1 and 2). -/
structure State where
  /-- `memory` (20_memory.md R50). -/
  mem   : Memory
  /-- `V0`..`VF` (R20); `VF` is `V[15]` (R21). -/
  v     : Vector Byte 16
  /-- The index register `I` (R22). -/
  i     : Word
  /-- The program counter (R24). -/
  pc    : Word
  /-- The call stack, stale entries included (R26, R27). -/
  stack : Vector Word 16
  /-- The call depth, 0 to 16 (R26). -/
  sp    : Fin 17
  /-- `delay_timer` (R28). -/
  dt    : Byte
  /-- `sound_timer` (R28). -/
  st    : Byte
  /-- The display buffer (R29). -/
  disp  : Display
  /-- The dirty flag (R30). -/
  dirty : Bool
  /-- The key latch (R31). -/
  keys  : Vector Bool 16
  /-- The fault status (R32). -/
  fault : Option FaultRecord
  /-- The machine's parameters: no operation changes them. DESIGN CHOICE (log entry 3). -/
  cfg   : Config
  /-- How many random bytes have been drawn. DESIGN CHOICE (log entry 1). -/
  draws : Nat
  /-- The diagnostic events emitted, newest first: a record of output. DESIGN CHOICE (log entry 2). -/
  diags : List Diag
  deriving DecidableEq, Repr

/-- What one instruction, or one step, answers. -/
abbrev Result := Host.Outcome State Fault Refusal

/-- The state after `RESET` of a machine with parameters `c` (10_state.md R35, 70_reset_and_hazards.md R240). -/
def State.resetWith (c : Config) : State where
  mem   := []
  v     := Vector.replicate 16 0#8
  i     := 0#16
  pc    := 0x0200#16
  stack := Vector.replicate 16 0#16
  sp    := 0
  dt    := 0#8
  st    := 0#8
  disp  := Vector.replicate 64 (Vector.replicate 32 false)
  dirty := true
  keys  := Vector.replicate 16 false
  fault := none
  cfg   := c
  draws := 0
  diags := []

/-- The machine right after reset, its parameters at the spec's defaults. -/
def State.reset : State := State.resetWith defaultConfig

end Sys2Proof.Machine
end

