-- ==== Sys2Proof/Machine/Ops.lean ====
section
/-! DEFINITION. The named operations every meaning is written over: memory, registers, `pc`, the call stack,
the fetch, raising a fault and emitting a diagnostic. -/

namespace Sys2Proof.Machine

-- Memory (20_memory.md).

/-- `ADDR_MAX` (00_scope.md R7). -/
abbrev addrMax : Nat := 0xFFF

/-- `PROG_BASE` (00_scope.md R7). -/
abbrev progBase : Nat := 0x200

/-- Whether an address exists (20_memory.md R50, R53). -/
def inMemory (a : Nat) : Bool := decide (a ≤ addrMax)

/-- What an unlisted address reads as: memory is all 0 at reset (10_state.md R35, 20_memory.md R58). -/
def unlistedByte : Byte := 0#8

/-- The byte at an address (20_memory.md R53). Addresses are never reduced modulo 4096: every caller tests
`inMemory` first and raises its own fault (log entry 9). -/
def Memory.read : Memory → Nat → Byte
  | [], _ => unlistedByte
  | (k, b) :: m, a => if k = a then b else Memory.read m a

/-- Store one byte, keeping the canonical form: the cells stay in order, and a byte that an unlisted address
would read as is not listed. Only `LOAD` stores (20_memory.md R52). -/
def Memory.write : Memory → Nat → Byte → Memory
  | [], a, b => if b = unlistedByte then [] else [(a, b)]
  | (k, c) :: m, a, b =>
    if a < k then
      if b = unlistedByte then (k, c) :: m else (a, b) :: (k, c) :: m
    else if a = k then
      if b = unlistedByte then m else (a, b) :: m
    else (k, c) :: Memory.write m a b

/-- The canonical form of the cells at or above `lo`: addresses strictly rising, all of them in memory, no
cell equal to what an unlisted address reads as. -/
def Memory.wfFrom : Nat → Memory → Bool
  | _, [] => true
  | lo, (k, b) :: m => decide (lo ≤ k) && inMemory k && b != unlistedByte && Memory.wfFrom (k + 1) m

/-- The canonical form of a memory. -/
def Memory.wf (m : Memory) : Bool := Memory.wfFrom 0 m

-- Registers (10_state.md R20): sixteen, none hard-wired.

/-- `V[x]`. -/
def State.getV (s : State) (x : Reg) : Byte := s.v[x]

/-- `V[x] <- b`. -/
def State.setV (s : State) (x : Reg) (b : Byte) : State := { s with v := s.v.set x b }

/-- `VF`, register 15, which doubles as the flag register (10_state.md R21). -/
def flagReg : Reg := 15

/-- `I <- w` (10_state.md R22: only `ANNN` does this). -/
def State.setI (s : State) (w : Word) : State := { s with i := w }

/-- `DT <- b` (10_state.md R28). -/
def State.setDt (s : State) (b : Byte) : State := { s with dt := b }

/-- `ST <- b` (10_state.md R28). -/
def State.setSt (s : State) (b : Byte) : State := { s with st := b }

/-- Take the next random byte: the counter moves on (41_register_alu.md R132; log entry 1). -/
def State.drawNext (s : State) : State := { s with draws := s.draws + 1 }

-- The program counter (40_control_flow.md R101); every sum is modulo 2^16, as `Word` addition is.

/-- `pc <- target`. -/
def State.setPc (s : State) (target : Word) : State := { s with pc := target }

/-- `pc <- (pc + 2) mod 2^16`: the end of every instruction that does not alter control flow. -/
def State.advance (s : State) : State := s.setPc (s.pc + 2#16)

/-- `pc <- (pc + 4) mod 2^16` when `taken`, else `pc <- (pc + 2) mod 2^16` (40_control_flow.md R106, R108). -/
def State.skipIf (s : State) (taken : Bool) : State :=
  s.setPc (s.pc + if taken then 4#16 else 2#16)

-- The call stack (10_state.md R26).

/-- `STACK_DEPTH` (00_scope.md R7). -/
abbrev stackDepth : Nat := 16

/-- `stack[sp] <- w`, then `sp <- sp + 1`, where there is room. -/
def State.push (s : State) (w : Word) (room : s.sp.val < stackDepth) : State :=
  { s with
    stack := s.stack.set s.sp.val w room
    sp := ⟨s.sp.val + 1, Nat.succ_lt_succ room⟩ }

/-- `stack[sp − 1]`, the entry the next return takes. -/
def State.top (s : State) (live : 0 < s.sp.val) : Word :=
  s.stack[s.sp.val - 1]'(Nat.lt_of_lt_of_le (Nat.sub_lt live Nat.one_pos) (Nat.le_of_lt_succ s.sp.isLt))

/-- `sp <- sp − 1`; the entry stays as a stale value (40_control_flow.md R103). -/
def State.drop (s : State) : State :=
  { s with sp := ⟨s.sp.val - 1, Nat.lt_of_le_of_lt (Nat.sub_le _ _) s.sp.isLt⟩ }

-- Faults and diagnostics.

/-- The number of a fault code (60_exceptions.md R200); 0 means no fault. -/
def Fault.number : Fault → Nat
  | .stackOverflow => 1
  | .stackUnderflow => 2
  | .fetchOutOfRange => 3
  | .misalignedFetch => 4
  | .spriteOutOfRange => 5
  | .keyIndexOutOfRange => 6

/-- `raise Fault(code, info)` (60_exceptions.md R201, R203), the block's whole exception entry: the fault status
records the code, the address of the faulting instruction and what the caller knows of the word and the
offending address; no other state changes. There is no trap entry, no handler, and no return from one
(R207): only `RESET` clears the status. -/
def raiseFault (code : Fault) (word : Option Word) (addr : Option Nat) (s : State) : Result :=
  .next { s with fault := some { code := code, pc := s.pc, word := word, addr := addr } }

/-- `emit Diag(pc, w)` (44_unrecognized.md R191): the event is recorded, the block's state is not touched. -/
def State.emitDiag (s : State) (w : Word) : State :=
  { s with diags := { pc := s.pc, word := w } :: s.diags }

-- The fetch (20_memory.md R54, R55).

/-- What a fetch gives. -/
inductive Fetched where
  /-- The instruction word. -/
  | word (w : Word)
  /-- The fault it raises, with the offending address where the record holds one. -/
  | stop (code : Fault) (addr : Option Nat)
  deriving DecidableEq, Repr

/-- The word at `pc` and `pc + 1`, big-endian (20_memory.md R54). -/
def State.fetchWord (s : State) : Word :=
  wordOfBytes (s.mem.read s.pc.toNat) (s.mem.read (s.pc.toNat + 1))

/-- The fetch of a step, its two checks in the order of 20_memory.md R55 and 60_exceptions.md R204. -/
def State.fetch (s : State) : Fetched :=
  if s.pc.toNat % 2 ≠ 0 then .stop .misalignedFetch none
  else if inMemory (s.pc.toNat + 1) then .word s.fetchWord
  else .stop .fetchOutOfRange (some (s.pc.toNat + 1))

/-- Whether the fetch at `pc` succeeds. -/
def State.fetchable (s : State) : Bool :=
  decide (s.pc.toNat % 2 = 0) && inMemory (s.pc.toNat + 1)

end Sys2Proof.Machine
end

