-- ==== Sys2Proof/Machine/Flags.lean ====
section
/-! DEFINITION. The flag computations (10_state.md R21) and the write of a flag beside a result. There is no flags
register: the flag lands in `VF`. -/

namespace Sys2Proof.Machine

/-- A flag's value in `VF`: 1 or 0. -/
def flagByte (b : Bool) : Byte := if b then 1#8 else 0#8

/-- Carry of `8XY4`: the unbounded sum exceeds 255 (41_register_alu.md R129). -/
def carryFlag (a b : Byte) : Bool := decide (255 < a.toNat + b.toNat)

/-- No-borrow flag of `8XY5`: `a >= b` (41_register_alu.md R130). -/
def noBorrowFlag (a b : Byte) : Bool := decide (b.toNat ≤ a.toNat)

/-- `VF <- flag`. -/
def State.setFlag (s : State) (flag : Bool) : State := s.setV flagReg (flagByte flag)

/-- The two writes of `8XY4` and `8XY5`, in the order `VF_ORDER` (41_register_alu.md R122). -/
def State.setResultAndFlag (s : State) (x : Reg) (res : Byte) (flag : Bool) : State :=
  match s.cfg.vfOrder with
  | .flagThenResult => (s.setFlag flag).setV x res
  | .resultThenFlag => (s.setV x res).setFlag flag

end Sys2Proof.Machine
end

