-- ==== Sys2Proof/Machine/Operands.lean ====
section
/-! DEFINITION. The operand forms of 30_encoding.md R72 and what an instruction does to reach each operand:
immediates, key indices, display coordinates and sprite bytes. Register operands are `State.getV`. -/

namespace Sys2Proof.Machine

/-- `zext_16(NNN)` (30_encoding.md R72). -/
def zext16 (nnn : Addr12) : Word := nnn.setWidth 16

/-- The entry of the key latch an index names, where it names one (43_keys_timers.md R170). -/
def keyOf (b : Byte) : Option Key :=
  if h : b.toNat ≤ 0xF then some ⟨b.toNat, Nat.lt_succ_of_le h⟩ else none

/-- The level of a key (10_state.md R31). -/
def State.keyLevel (s : State) (k : Key) : Bool := s.keys[k]

/-- Display column of sprite column `c`: `(x0 + c) mod 64` (42_display.md R150). -/
def columnOf (x0 : Byte) (c : Nat) : Fin 64 := ⟨(x0.toNat + c) % 64, Nat.mod_lt _ (by decide)⟩

/-- Display row of sprite row `r`: `(y0 + r) mod 32` (42_display.md R150). -/
def rowOf (y0 : Byte) (r : Nat) : Fin 32 := ⟨(y0.toNat + r) % 32, Nat.mod_lt _ (by decide)⟩

/-- Bit of a sprite byte at sprite column `c`: bit 7 is column 0 (00_scope.md §6, 42_display.md R152). -/
def spriteBit (b : Byte) (c : Nat) : Bool := b.getLsbD (7 - c)

/-- `sprite_out_of_range(I, h)` (42_display.md R153), sums on unbounded integers. -/
def spriteOutOfRange (bound : SpriteBound) (base h : Nat) : Bool :=
  match bound with
  | .access => decide (1 ≤ h) && !inMemory (base + h - 1)
  | .literal => !inMemory (base + h)

/-- The `h` sprite bytes from address `base` on (20_memory.md R65). -/
def spriteBytes (m : Memory) (base h : Nat) : List Byte :=
  (List.range h).map fun r => m.read (base + r)

end Sys2Proof.Machine
end

