-- ==== Sys2Proof/Machine/Alu.lean ====
section
/-! DEFINITION. Register load, arithmetic and logic (41_register_alu.md). Operands are read before any register is
written (R121), and none of these instructions can fault (§2). `Byte` addition and subtraction are modulo
256 (R120). -/

namespace Sys2Proof.Machine

/-- `6XNN` (R123). -/
def execLdByte (x : Reg) (nn : Byte) (s : State) : Result :=
  .next (s.setV x nn).advance

/-- `7XNN` (R124): no flag. -/
def execAddByte (x : Reg) (nn : Byte) (s : State) : Result :=
  .next (s.setV x (s.getV x + nn)).advance

/-- `8XY0` (R125). -/
def execLdReg (x y : Reg) (s : State) : Result :=
  .next (s.setV x (s.getV y)).advance

/-- `8XY1` (R126): no flag. -/
def execOrReg (x y : Reg) (s : State) : Result :=
  .next (s.setV x (s.getV x ||| s.getV y)).advance

/-- `8XY2` (R127): no flag. -/
def execAndReg (x y : Reg) (s : State) : Result :=
  .next (s.setV x (s.getV x &&& s.getV y)).advance

/-- `8XY3` (R128): no flag. -/
def execXorReg (x y : Reg) (s : State) : Result :=
  .next (s.setV x (s.getV x ^^^ s.getV y)).advance

/-- `8XY4` (R129). -/
def execAddReg (x y : Reg) (s : State) : Result :=
  .next (s.setResultAndFlag x (s.getV x + s.getV y) (carryFlag (s.getV x) (s.getV y))).advance

/-- `8XY5` (R130). -/
def execSubReg (x y : Reg) (s : State) : Result :=
  .next (s.setResultAndFlag x (s.getV x - s.getV y) (noBorrowFlag (s.getV x) (s.getV y))).advance

/-- `ANNN` (R131). -/
def execLdI (nnn : Addr12) (s : State) : Result :=
  .next (s.setI (zext16 nnn)).advance

/-- `CXNN` with the drawn byte `rnd` as an argument (R133). -/
def rndWith (rnd : Byte) (x : Reg) (nn : Byte) (s : State) : State :=
  (s.setV x (rnd &&& nn)).advance

/-- `CXNN` (R132, R133): the draw is the next free byte. -/
def execRnd (x : Reg) (nn : Byte) (s : State) : Result :=
  .next (rndWith (Config.randByte s.draws) x nn s).drawNext

end Sys2Proof.Machine
end

