-- ==== Sys2Proof/Machine/Control.lean ====
section
/-! DEFINITION. Control flow (40_control_flow.md). No transfer checks its target: the next fetch does (R109). -/

namespace Sys2Proof.Machine

/-- `00EE` (R103). -/
def execRet (s : State) : Result :=
  if live : 0 < s.sp.val then .next (s.drop.setPc (s.top live + 2#16))
  else raiseFault .stackUnderflow (some (encode .ret)) none s

/-- `1NNN` (R104). -/
def execJp (nnn : Addr12) (s : State) : Result :=
  .next (s.setPc (zext16 nnn))

/-- `2NNN` (R105): the address of the call itself is pushed. -/
def execCall (nnn : Addr12) (s : State) : Result :=
  if room : s.sp.val < stackDepth then .next ((s.push s.pc room).setPc (zext16 nnn))
  else raiseFault .stackOverflow (some (encode (.call nnn))) none s

/-- `3XNN` (R106). -/
def execSe (x : Reg) (nn : Byte) (s : State) : Result :=
  .next (s.skipIf (s.getV x == nn))

/-- `4XNN` (R107). -/
def execSne (x : Reg) (nn : Byte) (s : State) : Result :=
  .next (s.skipIf (s.getV x != nn))

end Sys2Proof.Machine
end

