-- ==== Sys2Proof/Machine/Draw.lean ====
section
/-! DEFINITION. The display buffer and the XOR sprite draw (42_display.md). -/

namespace Sys2Proof.Machine

/-- `disp[x][y]`. -/
def Display.cell (d : Display) (x : Fin 64) (y : Fin 32) : Bool := d[x][y]

/-- `disp[x][y] <- disp[x][y] XOR 1`. -/
def Display.toggle (d : Display) (x : Fin 64) (y : Fin 32) : Display :=
  d.set x (d[x].set y (!d[x][y]))

/-- Every cell 0. -/
def Display.blank : Display := Vector.replicate 64 (Vector.replicate 32 false)

/-- What a draw works on: the buffer, and whether a set bit has met a cell that was on. -/
structure Canvas where
  disp : Display
  hit  : Bool
  deriving DecidableEq, Repr

/-- One set sprite bit on one cell: test for a collision, then toggle (R152). -/
def Canvas.plot (cv : Canvas) (x : Fin 64) (y : Fin 32) : Canvas :=
  { disp := Display.toggle cv.disp x y, hit := cv.hit || Display.cell cv.disp x y }

/-- Sprite column `c` of a row: nothing happens where its bit is clear. -/
def drawBit (x0 : Byte) (y : Fin 32) (b : Byte) (cv : Canvas) (c : Nat) : Canvas :=
  if spriteBit b c then cv.plot (columnOf x0 c) y else cv

/-- One sprite byte: columns 0 to 7 in order. -/
def drawRow (x0 : Byte) (y : Fin 32) (b : Byte) (cv : Canvas) : Canvas :=
  (List.range 8).foldl (drawBit x0 y b) cv

/-- The sprite's rows from row `r` on, in order (R152's outer loop). -/
def drawRows (x0 y0 : Byte) : Nat → List Byte → Canvas → Canvas
  | _, [], cv => cv
  | r, b :: bs, cv => drawRows x0 y0 (r + 1) bs (drawRow x0 (rowOf y0 r) b cv)

/-- The whole sprite at `(x0, y0)` on a buffer; the collision flag starts at 0 (R152). -/
def drawSprite (x0 y0 : Byte) (bytes : List Byte) (d : Display) : Canvas :=
  drawRows x0 y0 0 bytes { disp := d, hit := false }

/-- `disp <- d` and `dirty <- 1` (10_state.md R30, 42_display.md R156). -/
def State.setDisplay (s : State) (d : Display) : State := { s with disp := d, dirty := true }

/-- `00E0` (R151). -/
def execCls (s : State) : Result :=
  .next (s.setDisplay Display.blank).advance

/-- What `DXYN` draws: the sprite at `I`, at the coordinates in `V[X]` and `V[Y]`, as they stand before any
write (R152, R155; PRESUMED by the spec itself, log entry 8). -/
def State.drawn (s : State) (x y : Reg) (n : Nibble) : Canvas :=
  drawSprite (s.getV x) (s.getV y) (spriteBytes s.mem s.i.toNat n.toNat) s.disp

/-- `DXYN` (R152, R153): the bounds test comes before any write. -/
def execDrw (x y : Reg) (n : Nibble) (s : State) : Result :=
  if spriteOutOfRange s.cfg.spriteBound s.i.toNat n.toNat then
    raiseFault .spriteOutOfRange (some (encode (.drw x y n))) (some (s.i.toNat + n.toNat - 1)) s
  else
    .next ((s.setFlag (s.drawn x y n).hit).setDisplay (s.drawn x y n).disp).advance

end Sys2Proof.Machine
end

