-- ==== Sys2Proof/Machine/KeysTimers.lean ====
section
/-! DEFINITION. Key skips and timer access (43_keys_timers.md). -/

namespace Sys2Proof.Machine

/-- `EX9E` (R171): the key index is checked first (R170). -/
def execSkp (x : Reg) (s : State) : Result :=
  match keyOf (s.getV x) with
  | some k => .next (s.skipIf (s.keyLevel k))
  | none => raiseFault .keyIndexOutOfRange (some (encode (.skp x))) (some (s.getV x).toNat) s

/-- `EXA1` (R172). -/
def execSknp (x : Reg) (s : State) : Result :=
  match keyOf (s.getV x) with
  | some k => .next (s.skipIf (!s.keyLevel k))
  | none => raiseFault .keyIndexOutOfRange (some (encode (.sknp x))) (some (s.getV x).toNat) s

/-- `FX07` (R173). -/
def execLdVxDt (x : Reg) (s : State) : Result :=
  .next (s.setV x s.dt).advance

/-- `FX15` (R174). -/
def execLdDtVx (x : Reg) (s : State) : Result :=
  .next (s.setDt (s.getV x)).advance

/-- `FX18` (R175). -/
def execLdStVx (x : Reg) (s : State) : Result :=
  .next (s.setSt (s.getV x)).advance

end Sys2Proof.Machine
end

