-- ==== Sys2Proof/Machine/Unrecognized.lean ====
section
/-! DEFINITION. Unrecognized words (44_unrecognized.md). -/

namespace Sys2Proof.Machine

/-- Any word outside the table (R190): a diagnostic and `pc + 2`, nothing else. -/
def execUnrecognized (w : Word) (s : State) : Result :=
  .next (s.emitDiag w).advance

end Sys2Proof.Machine
end

