-- ==== Sys2Proof/Machine/Step.lean ====
section
/-! DEFINITION. `STEP` (40_control_flow.md R100), and how a test word is placed for the next fetch. -/

namespace Sys2Proof.Machine

/-- `STEP`: a faulted block changes no state and returns its code again (60_exceptions.md R202); otherwise
fetch, decode, execute. A step that raises a fault answers the next state with the fault status written
(log entry 4). -/
def step (s : State) : Host.Outcome State Fault Refusal :=
  match s.fault with
  | some r => .fault r.code
  | none =>
    match s.fetch with
    | .stop code addr => raiseFault code none addr s
    | .word w => exec (decodeWord w) s

/-- `s` with the table word stored where the next step fetches. A step also needs a clear fault status and a
`pc` that can be fetched from: they are set where `s` lacks them, and nothing else changes (log entries 6
and 7). -/
def State.withFetchWord (s : State) (nbits w : Nat) : State :=
  let at0 : Nat := if s.fetchable then s.pc.toNat else progBase
  { s with
    mem := (s.mem.write at0 (hiByte (tableWord nbits w))).write (at0 + 1) (loByte (tableWord nbits w))
    pc := BitVec.ofNat 16 at0
    fault := none }

end Sys2Proof.Machine
end

