-- ==== Sys2Proof/Machine/HostOps.lean ====
section
/-! DEFINITION. The block's transaction-level interface (00_scope.md R5): what each host operation does to the block,
what it outputs, and a session that plays any sequence of them under the boot duties (70_reset_and_hazards.md
R247). None of this is part of `step`: no operation overlaps another (00_scope.md R6). -/

namespace Sys2Proof.Machine

/-- One timer under `TICK`: down by 1, never below 0 (60_exceptions.md R215, R217). -/
def tickTimer (t : Byte) : Byte := if 0 < t.toNat then t - 1#8 else t

/-- `TICK` (R215): both timers, each on its own. -/
def State.tick (s : State) : State := { s with dt := tickTimer s.dt, st := tickTimer s.st }

/-- `KEY_WRITE(k, level)` (R221): last write wins (R222). -/
def State.keyWrite (s : State) (k : Key) (level : Bool) : State := { s with keys := s.keys.set k level }

/-- `DIRTY_CLEAR` (R223). -/
def State.dirtyClear (s : State) : State := { s with dirty := false }

/-- `RESET` (70_reset_and_hazards.md R240): all state is discarded. The parameters belong to the machine and stay; the
count of random draws goes on, so that no later draw is tied to an earlier one (R132, log entry 1). -/
def State.resetOp (s : State) : State := { State.resetWith s.cfg with draws := s.draws }

/-- `ROM_MAX` (00_scope.md R7). -/
abbrev romMax : Nat := 3584

/-- `MemWrite` of each byte in turn from address `a` on (70_reset_and_hazards.md R244). -/
def Memory.writeBytes : Memory → Nat → List Byte → Memory
  | m, _, [] => m
  | m, a, b :: bs => Memory.writeBytes (m.write a b) (a + 1) bs

/-- `LOAD(bytes)` (R244): none is `LoadError`, which changes nothing (R245). -/
def State.load (s : State) (bytes : List Byte) : Option State :=
  if bytes.length ≤ romMax then some { s with mem := s.mem.writeBytes progBase bytes } else none

/-- Framebuffer export (60_exceptions.md R224): the grid and the dirty flag. Reading it changes nothing. -/
def State.framebuffer (s : State) : Display × Bool := (s.disp, s.dirty)

/-- What one operation outputs (00_scope.md R5). -/
inductive Output where
  /-- An operation without an output. -/
  | silent
  /-- `ok` of `LOAD` or `STEP`. -/
  | ok
  /-- `ok` of a `STEP` with the diagnostic event of an unrecognized word. -/
  | okDiag (d : Diag)
  /-- `Fault(code)` of a `STEP`. -/
  | faulted (code : Fault)
  /-- `LoadError` of a `LOAD`. -/
  | loadError
  deriving DecidableEq, Repr

/-- What `STEP` at `s` returns (40_control_flow.md R100): a fault when the block is faulted, or was faulted by this
step; else the diagnostic if this step emitted one. -/
def stepOutput (s : State) : Output :=
  match step s with
  | .fault code => .faulted code
  | .refused _ => .silent
  | .next t =>
    match t.fault with
    | some r => .faulted r.code
    | none =>
      match t.diags with
      | d :: ds => if ds = s.diags then .okDiag d else .ok
      | [] => .ok

/-- The operations of 00_scope.md R5. -/
inductive Op where
  | reset
  | load (bytes : List Byte)
  | step
  | tick
  | keyWrite (k : Key) (level : Bool)
  | dirtyClear
  deriving DecidableEq, Repr

/-- Where the host stands in booting the block: its own state, not the block's (log entry 6). -/
inductive Phase where
  /-- After `RESET`, nothing loaded yet. -/
  | fresh
  /-- After a successful `LOAD`. -/
  | loaded
  /-- After a `LoadError`: "the machine must not be started" (70_reset_and_hazards.md R245). -/
  | loadFailed
  deriving DecidableEq, Repr

/-- The block and the boot phase of its host. -/
structure Session where
  block : State
  phase : Phase
  deriving DecidableEq, Repr

/-- A host duty of 70_reset_and_hazards.md R247 that an operation would break (93 U14: no move). -/
inductive BrokenDuty where
  /-- `STEP` before a successful `LOAD`. -/
  | stepBeforeLoad
  /-- `STEP` after a `LoadError`. -/
  | stepAfterLoadError
  /-- A `LOAD` that is not the first since `RESET`. -/
  | secondLoad
  deriving DecidableEq, Repr

/-- What the session answers to one operation. -/
inductive Answer where
  /-- The operation completed. -/
  | done (next : Session) (out : Output)
  /-- The host broke a duty: the spec gives no move. -/
  | noMove (why : BrokenDuty)
  deriving DecidableEq, Repr

/-- The block after a `STEP`: a faulted block keeps its state (60_exceptions.md R202). -/
def State.afterStep (s : State) : State :=
  match step s with
  | .next t => t
  | .fault _ => s
  | .refused _ => s

/-- One operation of the host. `TICK`, `KEY_WRITE`, `DIRTY_CLEAR` and `RESET` are always allowed (00_scope.md R6). -/
def Session.perform (σ : Session) : Op → Answer
  | .reset => .done { block := σ.block.resetOp, phase := .fresh } .silent
  | .load bytes =>
    match σ.phase with
    | .fresh =>
      match σ.block.load bytes with
      | some t => .done { block := t, phase := .loaded } .ok
      | none => .done { block := σ.block, phase := .loadFailed } .loadError
    | .loaded => .noMove .secondLoad
    | .loadFailed => .noMove .secondLoad
  | .step =>
    match σ.phase with
    | .loaded => .done { block := σ.block.afterStep, phase := .loaded } (stepOutput σ.block)
    | .fresh => .noMove .stepBeforeLoad
    | .loadFailed => .noMove .stepAfterLoadError
  | .tick => .done { σ with block := σ.block.tick } .silent
  | .keyWrite k level => .done { σ with block := σ.block.keyWrite k level } .silent
  | .dirtyClear => .done { σ with block := σ.block.dirtyClear } .silent

/-- The session after a sequence of operations, if the host broke no duty. -/
def Session.play : Session → List Op → Option Session
  | σ, [] => some σ
  | σ, op :: ops =>
    match σ.perform op with
    | .done next _ => Session.play next ops
    | .noMove _ => none

/-- The session of a machine with parameters `c`, right after creation (70_reset_and_hazards.md R240). -/
def Session.created (c : Config) : Session := { block := State.resetWith c, phase := .fresh }

/-- The states of the block some sequence of operations reaches. -/
def State.Reachable (s : State) : Prop :=
  ∃ (c : Config) (ops : List Op) (σ : Session), (Session.created c).play ops = some σ ∧ σ.block = s

end Sys2Proof.Machine
end

