-- ==== Sys2Proof/Safety.lean ====
section
/-! DEFINITION. What claims are made of: the invariant of a running block, the safe step, and the frames. -/

namespace Sys2Proof.Machine

-- Encoding.

/-- An instruction's operands are the slices of the word `w` (30_encoding.md R71), as numbers: `X` is bits 11..8, `Y` bits
7..4, `N` bits 3..0, `NN` bits 7..0, `NNN` bits 11..0. -/
def OperandsAreSlices (w : Word) : Instr → Prop
  | .cls => True
  | .ret => True
  | .jp nnn => nnn.toNat = w.toNat % 0x1000
  | .call nnn => nnn.toNat = w.toNat % 0x1000
  | .se x nn => x.val = w.toNat / 0x100 % 0x10 ∧ nn.toNat = w.toNat % 0x100
  | .sne x nn => x.val = w.toNat / 0x100 % 0x10 ∧ nn.toNat = w.toNat % 0x100
  | .ldByte x nn => x.val = w.toNat / 0x100 % 0x10 ∧ nn.toNat = w.toNat % 0x100
  | .addByte x nn => x.val = w.toNat / 0x100 % 0x10 ∧ nn.toNat = w.toNat % 0x100
  | .ldReg x y => x.val = w.toNat / 0x100 % 0x10 ∧ y.val = w.toNat / 0x10 % 0x10
  | .orReg x y => x.val = w.toNat / 0x100 % 0x10 ∧ y.val = w.toNat / 0x10 % 0x10
  | .andReg x y => x.val = w.toNat / 0x100 % 0x10 ∧ y.val = w.toNat / 0x10 % 0x10
  | .xorReg x y => x.val = w.toNat / 0x100 % 0x10 ∧ y.val = w.toNat / 0x10 % 0x10
  | .addReg x y => x.val = w.toNat / 0x100 % 0x10 ∧ y.val = w.toNat / 0x10 % 0x10
  | .subReg x y => x.val = w.toNat / 0x100 % 0x10 ∧ y.val = w.toNat / 0x10 % 0x10
  | .ldI nnn => nnn.toNat = w.toNat % 0x1000
  | .rnd x nn => x.val = w.toNat / 0x100 % 0x10 ∧ nn.toNat = w.toNat % 0x100
  | .drw x y n =>
    x.val = w.toNat / 0x100 % 0x10 ∧ y.val = w.toNat / 0x10 % 0x10 ∧ n.toNat = w.toNat % 0x10
  | .skp x => x.val = w.toNat / 0x100 % 0x10
  | .sknp x => x.val = w.toNat / 0x100 % 0x10
  | .ldVxDt x => x.val = w.toNat / 0x100 % 0x10
  | .ldDtVx x => x.val = w.toNat / 0x100 % 0x10
  | .ldStVx x => x.val = w.toNat / 0x100 % 0x10
  | .unrecognized u => u = w

-- Frames: what stays the same between two states, piece by piece.

/-- Every register outside `except` is unchanged. -/
def SameV (s t : State) (except : List Reg) : Prop := ∀ r : Reg, r ∉ except → t.getV r = s.getV r

/-- Every byte of memory reads as before. -/
def SameMem (s t : State) : Prop := ∀ a : Nat, t.mem.read a = s.mem.read a

/-- The call stack and its depth. -/
def SameStack (s t : State) : Prop := t.stack = s.stack ∧ t.sp = s.sp

/-- Both timers. -/
def SameTimers (s t : State) : Prop := t.dt = s.dt ∧ t.st = s.st

/-- The display buffer and the dirty flag. -/
def SameDisplay (s t : State) : Prop := t.disp = s.disp ∧ t.dirty = s.dirty

/-- What only the host, or only a fault, writes: the key latch, the parameters, the fault status. -/
def SameHost (s t : State) : Prop := t.keys = s.keys ∧ t.cfg = s.cfg ∧ t.fault = s.fault

/-- The model's own records: the count of draws and the diagnostics. -/
def SameRecords (s t : State) : Prop := t.draws = s.draws ∧ t.diags = s.diags

/-- The frame of an instruction that writes registers and `pc` only: all of the spec's state but the registers in
`except` and `pc` is unchanged. -/
def RegisterFrame (s t : State) (except : List Reg) : Prop :=
  SameV s t except ∧ t.i = s.i ∧ SameMem s t ∧ SameStack s t ∧ SameTimers s t ∧ SameDisplay s t ∧
    SameHost s t

-- The invariant.

/-- A live return address is one a fetch succeeded at (10_state.md R25, R26). -/
def State.StackOk (s : State) : Prop :=
  ∀ k : Fin 16, k.val < s.sp.val → s.stack[k].toNat ≤ 0xFFE ∧ s.stack[k].toNat % 2 = 0

/-- The fault record tells of the faulting instruction: `pc` still holds its address (40_control_flow.md R102), and the
record's parts are present as 60_exceptions.md R203 says. -/
def FaultRecord.Ok (r : FaultRecord) (pc : Word) : Prop :=
  r.pc = pc ∧
    (r.word.isSome ↔ r.code ≠ .fetchOutOfRange ∧ r.code ≠ .misalignedFetch) ∧
    (r.addr.isSome ↔ r.code = .fetchOutOfRange ∨ r.code = .spriteOutOfRange ∨ r.code = .keyIndexOutOfRange)

/-- What holds of the block after every operation: canonical memory, the bounds of `I` (10_state.md R23) and `pc`
(R25), good return addresses, and a fault record that fits. -/
def State.Inv (s : State) : Prop :=
  s.mem.wf = true ∧ s.i.toNat ≤ 0xFFF ∧ s.pc.toNat ≤ 0x1002 ∧ s.StackOk ∧
    ∀ r : FaultRecord, s.fault = some r → r.Ok s.pc

-- The safe step.

/-- The sprite of `h` bytes at `I` is in range (42_display.md R153), in the spec's own inequalities. -/
def State.SpriteFits (s : State) (h : Nat) : Prop :=
  match s.cfg.spriteBound with
  | .access => h = 0 ∨ s.i.toNat + h ≤ 0x1000
  | .literal => s.i.toNat + h ≤ 0xFFF

/-- What a program must keep for its next step not to fault (70_reset_and_hazards.md R253), read from the word at `pc` by
its bits and not through the decoder: `pc` even and at most `0xFFE`; a live entry for a return, room for a
call; the sprite inside memory; the key index in `0..15`. -/
def State.StepSafe (s : State) : Prop :=
  s.pc.toNat % 2 = 0 ∧ s.pc.toNat ≤ 0xFFE ∧
    (s.fetchWord = 0x00EE#16 → 0 < s.sp.val) ∧
    (s.fetchWord &&& 0xF000#16 = 0x2000#16 → s.sp.val < 16) ∧
    (s.fetchWord &&& 0xF000#16 = 0xD000#16 → s.SpriteFits (s.fetchWord &&& 0x000F#16).toNat) ∧
    (s.fetchWord &&& 0xF0FF#16 = 0xE09E#16 ∨ s.fetchWord &&& 0xF0FF#16 = 0xE0A1#16 →
      (s.getV (xField s.fetchWord)).toNat ≤ 0xF)

/-- The skip instructions and when each skips (40_control_flow.md R106, R107; 43_keys_timers.md R171, R172). -/
def State.SkipTaken (s : State) : Instr → Prop
  | .se x nn => s.getV x = nn
  | .sne x nn => s.getV x ≠ nn
  | .skp x => ∃ k : Key, k.val = (s.getV x).toNat ∧ s.keyLevel k = true
  | .sknp x => ∃ k : Key, k.val = (s.getV x).toNat ∧ s.keyLevel k = false
  | .cls => False
  | .ret => False
  | .jp _ => False
  | .call _ => False
  | .ldByte _ _ => False
  | .addByte _ _ => False
  | .ldReg _ _ => False
  | .orReg _ _ => False
  | .andReg _ _ => False
  | .xorReg _ _ => False
  | .addReg _ _ => False
  | .subReg _ _ => False
  | .ldI _ => False
  | .rnd _ _ => False
  | .drw _ _ _ => False
  | .ldVxDt _ => False
  | .ldDtVx _ => False
  | .ldStVx _ => False
  | .unrecognized _ => False

/-- The cells the sprite of `DXYN` lands a set bit on (42_display.md R152, R154), in the spec's own arithmetic: sprite row `r`
and column `c`, bit `7 − c` of the row's byte, the target cell modulo the buffer size. -/
def State.Covered (s : State) (x y : Reg) (n : Nibble) (cx : Fin 64) (cy : Fin 32) : Prop :=
  ∃ r c : Nat, r < n.toNat ∧ c < 8 ∧ (s.mem.read (s.i.toNat + r)).getLsbD (7 - c) = true ∧
    cx.val = ((s.getV x).toNat + c) % 64 ∧ cy.val = ((s.getV y).toNat + r) % 32

-- What a program can observe.

/-- Two states that a program cannot tell apart (10_state.md R27, R28, R30, R34): they may differ in stale stack entries,
the sound timer, the dirty flag, and in the record of diagnostics (44_unrecognized.md R191). -/
def ProgramEquiv (s t : State) : Prop :=
  t.mem = s.mem ∧ t.v = s.v ∧ t.i = s.i ∧ t.pc = s.pc ∧ t.sp = s.sp ∧ t.dt = s.dt ∧ t.disp = s.disp ∧
    t.keys = s.keys ∧ t.fault = s.fault ∧ t.cfg = s.cfg ∧ t.draws = s.draws ∧
    ∀ k : Fin 16, k.val < s.sp.val → t.stack[k] = s.stack[k]

-- Nested calls (40_control_flow.md R111).

/-- Execute a sequence of instructions one after the other, each at the state the one before left. -/
def execAll : List Instr → State → Result
  | [], s => .next s
  | i :: is, s =>
    match exec i s with
    | .next t => execAll is t
    | .fault r => .fault r
    | .refused r => .refused r

end Sys2Proof.Machine
end

