-- ==== Sys2Proof/Certificates/Slice0/Obligations.lean ====
section
/-! DEFINITION. The statements for the provers, from the numbered rules of spec/ file by file. -/

open Sys2Proof Sys2Proof.Machine

-- Encoding (30_encoding.md).

/-- Decoding the bytes of a well-formed instruction gives it back, whatever bytes follow (R70, R71, R74, R77). -/
def Obligations.DecodeOfEncodeIsIdentity : Prop :=
  ∀ (i : Instr) (rest : List Byte), i.wellFormed = true → decodeBytes (encodeBytes i ++ rest) = .instr i rest

/-- Every word is the encoding of the well-formed instruction it decodes to: no two words share a meaning, and the
word a fault record or a diagnostic is built from is the word fetched (R73). -/
def Obligations.EncodeOfDecodeIsIdentity : Prop :=
  ∀ w : Word, encode (decodeWord w) = w ∧ (decodeWord w).wellFormed = true

/-- The decoder is the table of R74: a word decodes to a row's instruction exactly when it matches the row, and to
"unrecognized" exactly when it matches none. -/
def Obligations.DecoderIsTheOpcodeTable : Prop :=
  ∀ w : Word,
    (∀ row ∈ opcodeTable, (decodeWord w).label = row.label ↔ w &&& row.mask = row.pattern) ∧
    (decodeWord w = .unrecognized w ↔ ∀ row ∈ opcodeTable, w &&& row.mask ≠ row.pattern)

/-- The operands of an instruction are the slices of `w` that R71 gives them, as numbers (Safety.lean's
`OperandsAreSlices` lists them). -/
def Obligations.OperandsAreFixedSlices : Prop := ∀ w : Word, OperandsAreSlices w (decodeWord w)

/-- The decoder's unrecognized words are the space R75 lists family by family. -/
def Obligations.UnrecognizedSpaceIsAsListed : Prop :=
  ∀ w : Word, decodeWord w = .unrecognized w ↔ unrecognizedWord w = true

/-- The encodings of R193, which other CHIP-8 machines define, have none of those meanings here: each decodes as unrecognized, and
a step at one changes nothing but `pc`, by 2, beside the diagnostic, kept in the model's own record of outputs (log entry 2). -/
def Obligations.OtherChip8WordsAreUnrecognized : Prop :=
  ∀ w : Word,
    ((w &&& 0xF000#16 = 0x0000#16 ∧ w ≠ 0x00E0#16 ∧ w ≠ 0x00EE#16) ∨
      w &&& 0xF00F#16 = 0x5000#16 ∨ w &&& 0xF00F#16 = 0x9000#16 ∨ w &&& 0xF000#16 = 0xB000#16 ∨
      w &&& 0xF00F#16 = 0x8006#16 ∨ w &&& 0xF00F#16 = 0x8007#16 ∨ w &&& 0xF00F#16 = 0x800E#16 ∨
      w &&& 0xF0FF#16 = 0xF00A#16 ∨ w &&& 0xF0FF#16 = 0xF01E#16 ∨ w &&& 0xF0FF#16 = 0xF029#16 ∨
      w &&& 0xF0FF#16 = 0xF033#16 ∨ w &&& 0xF0FF#16 = 0xF055#16 ∨ w &&& 0xF0FF#16 = 0xF065#16) →
    decodeWord w = .unrecognized w ∧
      ∀ s : State, s.fault = none → s.fetchable = true → s.fetchWord = w →
        step s = .next { s with pc := s.pc + 2#16, diags := { pc := s.pc, word := w } :: s.diags }

/-- A few words written out from the encodings of R74. -/
def Obligations.SampleWordsDecode : Prop :=
  decodeWord 0x00E0#16 = .cls ∧ decodeWord 0x00EE#16 = .ret ∧ decodeWord 0x1234#16 = .jp 0x234#12 ∧
    decodeWord 0x3310#16 = .se 3 0x10#8 ∧ decodeWord 0x8F14#16 = .addReg 15 1 ∧
    decodeWord 0xD01F#16 = .drw 0 1 15#4 ∧ decodeWord 0xE2A1#16 = .sknp 2 ∧
    decodeWord 0xF418#16 = .ldStVx 4 ∧ decodeWord 0x0000#16 = .unrecognized 0x0000#16

-- Reset (10_state.md R35, 70_reset_and_hazards.md R240).

/-- The reset value of every piece of state in R35's table, for either setting of the parameters. -/
def Obligations.ResetValues : Prop :=
  ∀ c : Config,
    let s := State.resetWith c
    (∀ a : Nat, s.mem.read a = 0#8) ∧ (∀ x : Reg, s.getV x = 0#8) ∧ s.i = 0#16 ∧ s.pc = 0x200#16 ∧
      (∀ k : Fin 16, s.stack[k] = 0#16) ∧ s.sp.val = 0 ∧ s.dt = 0#8 ∧ s.st = 0#8 ∧
      (∀ (x : Fin 64) (y : Fin 32), Display.cell s.disp x y = false) ∧ s.dirty = true ∧
      (∀ k : Key, s.keyLevel k = false) ∧ s.fault = none

/-- The invariant holds at reset. -/
def Obligations.InvariantAtReset : Prop := State.reset.Inv ∧ ∀ c : Config, (State.resetWith c).Inv

-- The step (40_control_flow.md R100, 20_memory.md R54, R55).

/-- When the bytes at `pc` decode to an instruction, a step of a block that is not faulted is that instruction's
execution: the step adds nothing around it. -/
def Obligations.StepRunsTheDecodedInstruction : Prop :=
  ∀ (s : State) (i : Instr) (rest : List Byte),
    s.fault = none → s.pc.toNat % 2 = 0 → s.pc.toNat + 1 ≤ 0xFFF →
    decodeBytes [s.mem.read s.pc.toNat, s.mem.read (s.pc.toNat + 1)] = .instr i rest →
    step s = exec i s

/-- The fetch reads the bytes at `pc` and `pc + 1` and combines them big-endian (R54): where both of its checks pass, the step
executes the instruction of that word. -/
def Obligations.FetchReadsTwoBytesBigEndian : Prop :=
  ∀ (s : State) (w : Word), s.fault = none → s.pc.toNat % 2 = 0 → s.pc.toNat + 1 ≤ 0xFFF →
    w.toNat = (s.mem.read s.pc.toNat).toNat * 256 + (s.mem.read (s.pc.toNat + 1)).toNat →
    step s = exec (decodeWord w) s

/-- The fetch's two checks (R55; the spec's own decisions D4 and D5): an odd `pc`, then a word outside memory. -/
def Obligations.FetchChecksItsAddress : Prop :=
  ∀ s : State, s.fault = none →
    (s.pc.toNat % 2 ≠ 0 →
      step s = .next { s with fault := some { code := .misalignedFetch, pc := s.pc, word := none, addr := none } }) ∧
    (s.pc.toNat % 2 = 0 → 0xFFF < s.pc.toNat + 1 →
      step s = .next { s with fault := some { code := .fetchOutOfRange, pc := s.pc, word := none, addr := some (s.pc.toNat + 1) } })

/-- A table word placed for the next fetch is what the next step runs. Placing a word is the model's own device (`withFetchWord`, log
entry 7), no operation of the block. -/
def Obligations.StepRunsThePlacedWord : Prop :=
  ∀ (s : State) (nbits w : Nat), s.mem.wf = true →
    step (s.withFetchWord nbits w) = exec (decodeWord (BitVec.ofNat 16 (w % 2 ^ nbits))) (s.withFetchWord nbits w)

/-- No instruction stops the model: executing any instruction at any state answers a next state, and a step is
refused nowhere and stops only in a block already faulted.
A step that raises a fault answers a next state (log entry 4). -/
def Obligations.ExecutionNeverStops : Prop :=
  (∀ (i : Instr) (s : State), ∃ t : State, exec i s = .next t) ∧
  (∀ s : State, s.fault = none → ∃ t : State, step s = .next t)

/-- What `STEP` returns (R100): ok, ok with the diagnostic exactly for an unrecognized word, or the fault's code.
The outcome of a raising step is the model's (log entry 4). -/
def Obligations.StepOutputIsOkDiagOrFault : Prop :=
  ∀ s t : State, step s = .next t →
    (∀ r : FaultRecord, t.fault = some r → stepOutput s = .faulted r.code) ∧
    (t.fault = none →
      stepOutput s =
        match decodeWord s.fetchWord with
        | .unrecognized w => .okDiag { pc := s.pc, word := w }
        | _ => .ok)

-- Faults (60_exceptions.md).

/-- A step that raises a fault changes the fault status and nothing else, leaves `pc` at the faulting instruction and
returns the fault's code (R201; 40_control_flow.md R102).
Raising a fault so is the spec's decision D2. -/
def Obligations.FaultsArePrecise : Prop :=
  ∀ (s t : State) (r : FaultRecord), step s = .next t → t.fault = some r →
    t = { s with fault := some r } ∧ r.pc = s.pc ∧ stepOutput s = .faulted r.code

/-- Each fault comes from its own cause, has its own number and carries the information the spec's table lists for it (R200, R203; the
numbers are the spec's decision D3, the record its decision D26). The word is tested by its bits, not through the decoder. -/
def Obligations.FaultRecordTellsItsCause : Prop :=
  ∀ (s t : State) (r : FaultRecord), step s = .next t → t.fault = some r →
    match r.code with
    | .stackOverflow =>
      r.code.number = 1 ∧ s.fetchWord &&& 0xF000#16 = 0x2000#16 ∧ s.sp.val = 16 ∧
        r = { code := .stackOverflow, pc := s.pc, word := some s.fetchWord, addr := none }
    | .stackUnderflow =>
      r.code.number = 2 ∧ s.fetchWord = 0x00EE#16 ∧ s.sp.val = 0 ∧
        r = { code := .stackUnderflow, pc := s.pc, word := some s.fetchWord, addr := none }
    | .fetchOutOfRange =>
      r.code.number = 3 ∧ s.pc.toNat % 2 = 0 ∧ 0xFFF < s.pc.toNat + 1 ∧
        r = { code := .fetchOutOfRange, pc := s.pc, word := none, addr := some (s.pc.toNat + 1) }
    | .misalignedFetch =>
      r.code.number = 4 ∧ s.pc.toNat % 2 = 1 ∧
        r = { code := .misalignedFetch, pc := s.pc, word := none, addr := none }
    | .spriteOutOfRange =>
      r.code.number = 5 ∧ s.fetchWord &&& 0xF000#16 = 0xD000#16 ∧ ¬ s.SpriteFits (s.fetchWord.toNat % 16) ∧
        r = { code := .spriteOutOfRange, pc := s.pc, word := some s.fetchWord, addr := some (s.i.toNat + s.fetchWord.toNat % 16 - 1) }
    | .keyIndexOutOfRange =>
      r.code.number = 6 ∧ (s.fetchWord &&& 0xF0FF#16 = 0xE09E#16 ∨ s.fetchWord &&& 0xF0FF#16 = 0xE0A1#16) ∧
        0xF < (s.getV (xField s.fetchWord)).toNat ∧
        r = { code := .keyIndexOutOfRange, pc := s.pc, word := some s.fetchWord, addr := some (s.getV (xField s.fetchWord)).toNat }

/-- A step faults exactly when the program broke one of the duties of 70_reset_and_hazards.md R253. -/
def Obligations.StepFaultsExactlyWhenUnsafe : Prop :=
  ∀ s : State, s.fault = none →
    ((∃ t : State, step s = .next t ∧ t.fault = none) ↔ s.StepSafe)

/-- The order of a step's checks (R204): the faulted status, then the odd `pc`, then the range.
The order is the spec's decision D5. -/
def Obligations.FaultPriority : Prop :=
  ∀ s : State,
    (∀ r : FaultRecord, s.fault = some r → step s = .fault r.code) ∧
    (s.fault = none → s.pc = 0xFFF#16 →
      step s = .next { s with fault := some { code := .misalignedFetch, pc := 0xFFF#16, word := none, addr := none } }) ∧
    (s.fault = none → s.pc.toNat % 2 = 1 →
      ∃ t : State, step s = .next t ∧ t.fault.map FaultRecord.code = some .misalignedFetch) ∧
    (s.fault = none → s.pc.toNat % 2 = 0 → 0xFFE < s.pc.toNat →
      ∃ t : State, step s = .next t ∧ t.fault.map FaultRecord.code = some .fetchOutOfRange)

/-- The faulted block (R202): a step changes no state and returns the recorded code; ticks, key writes and dirty clears act as
ever and leave the fault, and so does a load; only a reset clears it.
The sticky status is the spec's decision D2. -/
def Obligations.FaultedBlockIsStuckUntilReset : Prop :=
  ∀ (s : State) (r : FaultRecord), s.fault = some r →
    step s = .fault r.code ∧ s.afterStep = s ∧ stepOutput s = .faulted r.code ∧
      s.tick.fault = some r ∧ s.tick.dt.toNat = s.dt.toNat - 1 ∧ s.tick.st.toNat = s.st.toNat - 1 ∧
      (∀ (k : Key) (level : Bool),
        (s.keyWrite k level).fault = some r ∧ (s.keyWrite k level).keyLevel k = level) ∧
      (∀ (bytes : List Byte) (t : State), s.load bytes = some t → t.fault = some r) ∧
      s.dirtyClear.fault = some r ∧ s.dirtyClear.dirty = false ∧
      s.resetOp.fault = none

/-- Executing a faulting instruction again would raise the same fault, whatever the host did to timers, keys, the dirty flag
and the draw in between (R202): the sticky status loses no run.
The spec derives this from its decision D2. -/
def Obligations.ReexecutionRaisesTheSameFault : Prop :=
  ∀ (s t : State) (r : FaultRecord) (dt st : Byte) (keys : Vector Bool 16) (dirty : Bool) (draws : Nat),
    step s = .next t → t.fault = some r →
    step { t with fault := none, dt := dt, st := st, keys := keys, dirty := dirty, draws := draws } =
      .next { t with dt := dt, st := st, keys := keys, dirty := dirty, draws := draws }

-- Invariants and whole-machine rules.

/-- The invariant of a running block is kept by every step, from every state that meets it. -/
def Obligations.StepKeepsInvariant : Prop :=
  ∀ s t : State, s.Inv → step s = .next t → t.Inv

/-- The invariant is kept by every operation of the host. -/
def Obligations.HostOperationsKeepInvariant : Prop :=
  ∀ s : State, s.Inv →
    s.tick.Inv ∧ (∀ (k : Key) (level : Bool), (s.keyWrite k level).Inv) ∧ s.dirtyClear.Inv ∧ s.resetOp.Inv ∧
      ∀ (bytes : List Byte) (t : State), s.load bytes = some t → t.Inv

/-- In every reachable state `I <= 0xFFF` and `pc <= 0x1002` (10_state.md R23, R25), memory is canonical, and the reserved
region reads 0 (20_memory.md R58, R59).
Sessions are the model's (log entry 6). -/
def Obligations.ReachableStatesStayInBounds : Prop :=
  ∀ s : State, s.Reachable →
    s.i.toNat ≤ 0xFFF ∧ s.pc.toNat ≤ 0x1002 ∧ s.mem.wf = true ∧
      ∀ a : Nat, a < 0x200 → s.mem.read a = 0#8

/-- After a load, and until the block is reset, every address reads as the load left it (20_memory.md R61): the image at
`0x200`, zero elsewhere.
Sessions are the model's (log entry 6). -/
def Obligations.MemoryHoldsTheLoadedImage : Prop :=
  ∀ (c : Config) (before after : List Op) (bytes : List Byte) (σ : Session),
    .reset ∉ after → bytes.length ≤ 3584 →
    (Session.created c).play (before ++ .load bytes :: after) = some σ →
    (∀ k : Nat, (h : k < bytes.length) → σ.block.mem.read (0x200 + k) = bytes[k]) ∧
      ∀ a : Nat, a < 0x200 ∨ 0x200 + bytes.length ≤ a → σ.block.mem.read a = 0#8

/-- No instruction writes memory, the key latch or the parameters, and each other piece of state has no writers but those the
spec names (10_state.md R22, R26, R28, R29, R30; 20_memory.md R52). -/
def Obligations.WritersOfEachPieceOfState : Prop :=
  ∀ (i : Instr) (s t : State), exec i s = .next t →
    t.mem = s.mem ∧ t.keys = s.keys ∧ t.cfg = s.cfg ∧
      (t.i ≠ s.i → ∃ nnn, i = .ldI nnn) ∧
      (t.dt ≠ s.dt → ∃ x, i = .ldDtVx x) ∧
      (t.st ≠ s.st → ∃ x, i = .ldStVx x) ∧
      (t.stack ≠ s.stack → ∃ nnn, i = .call nnn) ∧
      (t.sp ≠ s.sp → i = .ret ∨ ∃ nnn, i = .call nnn) ∧
      (t.disp ≠ s.disp ∨ t.dirty ≠ s.dirty → i = .cls ∨ ∃ x y n, i = .drw x y n) ∧
      (t.draws ≠ s.draws → ∃ x nn, i = .rnd x nn) ∧
      (t.diags ≠ s.diags → ∃ w, i = .unrecognized w)

/-- Which instruction writes which register (10_state.md R20, R21): its `X` where it has a destination, and `VF` as a flag by
`8XY4`, `8XY5` and `DXYN` alone. -/
def Obligations.RegisterWritersAreAsListed : Prop :=
  ∀ (i : Instr) (s t : State) (r : Reg), exec i s = .next t → t.getV r ≠ s.getV r →
    match i with
    | .ldByte x _ => r = x
    | .addByte x _ => r = x
    | .ldReg x _ => r = x
    | .orReg x _ => r = x
    | .andReg x _ => r = x
    | .xorReg x _ => r = x
    | .addReg x _ => r = x ∨ r = 15
    | .subReg x _ => r = x ∨ r = 15
    | .rnd x _ => r = x
    | .ldVxDt x => r = x
    | .drw _ _ _ => r = 15
    | _ => False

/-- The dirty flag is set by every `00E0` and every `DXYN` that completes, and no instruction clears it (42_display.md R156). -/
def Obligations.DirtyFlagIsSetAndNeverCleared : Prop :=
  (∀ s t : State, exec .cls s = .next t → t.dirty = true) ∧
  (∀ (x y : Reg) (n : Nibble) (s t : State), s.SpriteFits n.toNat → exec (.drw x y n) s = .next t → t.dirty = true) ∧
  (∀ (i : Instr) (s t : State), exec i s = .next t → s.dirty = true → t.dirty = true)

/-- A program cannot observe stale stack entries, the sound timer, the dirty flag or the diagnostics (10_state.md R34): steps
of two states that differ only there stay that way, or report the same fault.
The draws of both states are counted alike (log entry 1). -/
def Obligations.HiddenStateIsUnobservable : Prop :=
  ∀ s t : State, ProgramEquiv s t →
    (∃ s' t' : State, step s = .next s' ∧ step t = .next t' ∧ ProgramEquiv s' t') ∨
    (∃ code : Fault, step s = .fault code ∧ step t = .fault code)

-- Control flow (40_control_flow.md).

/-- `1NNN` (R104). -/
def Obligations.JumpSetsPc : Prop :=
  ∀ (nnn : Addr12) (s : State),
    decodeWord (BitVec.ofNat 16 (0x1000 + nnn.toNat)) = .jp nnn ∧
    ∃ t : State, exec (.jp nnn) s = .next t ∧ t.pc.toNat = nnn.toNat ∧ RegisterFrame s t [] ∧ SameRecords s t

/-- `2NNN` (R105): with room, the call's own address is pushed and `pc` goes to `NNN`; at `sp = 16` it faults and pushes nothing. -/
def Obligations.CallPushesOrOverflows : Prop :=
  ∀ (nnn : Addr12) (s : State),
    decodeWord (BitVec.ofNat 16 (0x2000 + nnn.toNat)) = .call nnn ∧
    (s.sp.val ≠ 16 →
      ∃ t : State, exec (.call nnn) s = .next t ∧ t.pc.toNat = nnn.toNat ∧ t.sp.val = s.sp.val + 1 ∧
        (∀ k : Fin 16, k.val = s.sp.val → t.stack[k] = s.pc) ∧
        (∀ k : Fin 16, k.val ≠ s.sp.val → t.stack[k] = s.stack[k]) ∧
        SameV s t [] ∧ t.i = s.i ∧ SameMem s t ∧ SameTimers s t ∧ SameDisplay s t ∧ SameHost s t ∧ SameRecords s t) ∧
    (s.sp.val = 16 →
      exec (.call nnn) s =
        .next { s with fault := some { code := .stackOverflow, pc := s.pc, word := some (encode (.call nnn)), addr := none } })

/-- `00EE` (R103): with a live entry, `sp` goes down and `pc` to the entry plus 2, and the entry stays; at `sp = 0` it faults. -/
def Obligations.ReturnPopsOrUnderflows : Prop :=
  ∀ s : State,
    decodeWord 0x00EE#16 = .ret ∧
    (s.sp.val ≠ 0 →
      ∃ t : State, exec .ret s = .next t ∧ t.sp.val + 1 = s.sp.val ∧ t.stack = s.stack ∧
        (∀ k : Fin 16, k.val = t.sp.val → t.pc.toNat = (s.stack[k].toNat + 2) % 2 ^ 16) ∧
        SameV s t [] ∧ t.i = s.i ∧ SameMem s t ∧ SameTimers s t ∧ SameDisplay s t ∧ SameHost s t ∧ SameRecords s t) ∧
    (s.sp.val = 0 →
      exec .ret s =
        .next { s with fault := some { code := .stackUnderflow, pc := s.pc, word := some 0x00EE#16, addr := none } })

/-- `3XNN` and `4XNN` (R106, R107). -/
def Obligations.CompareSkips : Prop :=
  ∀ (x : Reg) (nn : Byte) (s : State),
    decodeWord (BitVec.ofNat 16 (0x3000 + x.val * 0x100 + nn.toNat)) = .se x nn ∧
    decodeWord (BitVec.ofNat 16 (0x4000 + x.val * 0x100 + nn.toNat)) = .sne x nn ∧
    (∃ t : State, exec (.se x nn) s = .next t ∧ RegisterFrame s t [] ∧ SameRecords s t ∧
      (s.getV x = nn → t.pc.toNat = (s.pc.toNat + 4) % 2 ^ 16) ∧
      (s.getV x ≠ nn → t.pc.toNat = (s.pc.toNat + 2) % 2 ^ 16)) ∧
    (∃ t : State, exec (.sne x nn) s = .next t ∧ RegisterFrame s t [] ∧ SameRecords s t ∧
      (s.getV x ≠ nn → t.pc.toNat = (s.pc.toNat + 4) % 2 ^ 16) ∧
      (s.getV x = nn → t.pc.toNat = (s.pc.toNat + 2) % 2 ^ 16))

/-- A taken skip advances `pc` by exactly 4 whatever the skipped word is: the step is the same with any other contents of
memory outside the skip's own two bytes (R108). -/
def Obligations.TakenSkipIgnoresTheSkippedWord : Prop :=
  ∀ (s : State) (m : Memory),
    s.fault = none → s.fetchable = true → s.SkipTaken (decodeWord s.fetchWord) →
    m.read s.pc.toNat = s.mem.read s.pc.toNat → m.read (s.pc.toNat + 1) = s.mem.read (s.pc.toNat + 1) →
    step { s with mem := m } = .next { s with mem := m, pc := s.pc + 4#16 }

/-- No transfer checks its target: it lands there, and the next step's fetch raises the fault (R109). -/
def Obligations.TransferTargetsAreCheckedByTheNextFetch : Prop :=
  ∀ (s : State) (i : Instr) (target : Word), s.fault = none →
    (∃ nnn : Addr12, target.toNat = nnn.toNat ∧ (i = .jp nnn ∨ (i = .call nnn ∧ s.sp.val < 16))) ∨
      (i = .ret ∧ ∃ k : Fin 16, k.val + 1 = s.sp.val ∧ target = s.stack[k] + 2#16) →
    ∃ t : State, exec i s = .next t ∧ t.fault = none ∧ t.pc = target ∧
      (target.toNat % 2 = 1 →
        step t = .next { t with fault := some { code := .misalignedFetch, pc := target, word := none, addr := none } }) ∧
      (target.toNat % 2 = 0 → 0x1000 ≤ target.toNat →
        step t = .next { t with fault := some { code := .fetchOutOfRange, pc := target, word := none, addr := some (target.toNat + 1) } })

/-- Call and return round-trip (R111): as many returns as nested calls lead to the address after the outermost call, with the
depth and everything else, the entries live at the start among it, as before; a call with 16 entries live faults. -/
def Obligations.NestedCallsAndReturnsRoundTrip : Prop :=
  ∀ (s : State) (first : Addr12) (more : List Addr12), s.sp.val + (more.length + 1) ≤ 16 →
    ∃ t u : State,
      execAll ((first :: more).map Instr.call) s = .next t ∧ t.sp.val = s.sp.val + (more.length + 1) ∧
      (t.sp.val = 16 → ∀ nnn : Addr12,
        exec (.call nnn) t =
          .next { t with fault := some { code := .stackOverflow, pc := t.pc, word := some (encode (.call nnn)), addr := none } }) ∧
      execAll (List.replicate (more.length + 1) Instr.ret) t = .next u ∧
      u.pc = s.pc + 2#16 ∧ u.sp = s.sp ∧ (∀ k : Fin 16, k.val < s.sp.val → u.stack[k] = s.stack[k]) ∧ SameV s u [] ∧ u.i = s.i ∧ SameMem s u ∧ SameTimers s u ∧
      SameDisplay s u ∧ SameHost s u ∧ SameRecords s u

-- Registers (41_register_alu.md, and FX07 of 43_keys_timers.md).

/-- `6XNN`, `8XY0` and `FX07`: one register is written, from the immediate, from a register, from the delay timer (R123, R125, R173). -/
def Obligations.LoadsWriteOneRegister : Prop :=
  ∀ (x y : Reg) (nn : Byte) (s : State),
    decodeWord (BitVec.ofNat 16 (0x6000 + x.val * 0x100 + nn.toNat)) = .ldByte x nn ∧
    decodeWord (BitVec.ofNat 16 (0x8000 + x.val * 0x100 + y.val * 0x10)) = .ldReg x y ∧
    decodeWord (BitVec.ofNat 16 (0xF007 + x.val * 0x100)) = .ldVxDt x ∧
    (∃ t : State, exec (.ldByte x nn) s = .next t ∧ t.getV x = nn ∧
      t.pc.toNat = (s.pc.toNat + 2) % 2 ^ 16 ∧ RegisterFrame s t [x] ∧ SameRecords s t) ∧
    (∃ t : State, exec (.ldReg x y) s = .next t ∧ t.getV x = s.getV y ∧
      t.pc.toNat = (s.pc.toNat + 2) % 2 ^ 16 ∧ RegisterFrame s t [x] ∧ SameRecords s t) ∧
    (∃ t : State, exec (.ldVxDt x) s = .next t ∧ t.getV x = s.dt ∧
      t.pc.toNat = (s.pc.toNat + 2) % 2 ^ 16 ∧ RegisterFrame s t [x] ∧ SameRecords s t)

/-- `7XNN`: the sum modulo 256, and no flag (R124). -/
def Obligations.AddImmediateWrapsWithoutFlag : Prop :=
  ∀ (x : Reg) (nn : Byte) (s : State),
    decodeWord (BitVec.ofNat 16 (0x7000 + x.val * 0x100 + nn.toNat)) = .addByte x nn ∧
    ∃ t : State, exec (.addByte x nn) s = .next t ∧
      (t.getV x).toNat = ((s.getV x).toNat + nn.toNat) % 256 ∧
      t.pc.toNat = (s.pc.toNat + 2) % 2 ^ 16 ∧ RegisterFrame s t [x] ∧ SameRecords s t

/-- `8XY1`, `8XY2`, `8XY3`: bit by bit, and no flag (R126, R127, R128). -/
def Obligations.LogicIsBitwiseWithoutFlag : Prop :=
  ∀ (x y : Reg) (s : State),
    decodeWord (BitVec.ofNat 16 (0x8001 + x.val * 0x100 + y.val * 0x10)) = .orReg x y ∧
    decodeWord (BitVec.ofNat 16 (0x8002 + x.val * 0x100 + y.val * 0x10)) = .andReg x y ∧
    decodeWord (BitVec.ofNat 16 (0x8003 + x.val * 0x100 + y.val * 0x10)) = .xorReg x y ∧
    (∃ t : State, exec (.orReg x y) s = .next t ∧
      (∀ k : Nat, (t.getV x).getLsbD k = ((s.getV x).getLsbD k || (s.getV y).getLsbD k)) ∧
      t.pc.toNat = (s.pc.toNat + 2) % 2 ^ 16 ∧ RegisterFrame s t [x] ∧ SameRecords s t) ∧
    (∃ t : State, exec (.andReg x y) s = .next t ∧
      (∀ k : Nat, (t.getV x).getLsbD k = ((s.getV x).getLsbD k && (s.getV y).getLsbD k)) ∧
      t.pc.toNat = (s.pc.toNat + 2) % 2 ^ 16 ∧ RegisterFrame s t [x] ∧ SameRecords s t) ∧
    (∃ t : State, exec (.xorReg x y) s = .next t ∧
      (∀ k : Nat, (t.getV x).getLsbD k = Bool.xor ((s.getV x).getLsbD k) ((s.getV y).getLsbD k)) ∧
      t.pc.toNat = (s.pc.toNat + 2) % 2 ^ 16 ∧ RegisterFrame s t [x] ∧ SameRecords s t)

/-- `8XY4`: the sum modulo 256 in `V[X]`, the carry in `VF`; with `X = F` the write that `VF_ORDER` puts last survives (R129). -/
def Obligations.AddWritesSumAndCarry : Prop :=
  ∀ (x y : Reg) (s : State),
    let sum := (s.getV x).toNat + (s.getV y).toNat
    let flag := if sum > 255 then 1 else 0
    decodeWord (BitVec.ofNat 16 (0x8004 + x.val * 0x100 + y.val * 0x10)) = .addReg x y ∧
    ∃ t : State, exec (.addReg x y) s = .next t ∧
      (x ≠ 15 → (t.getV x).toNat = sum % 256 ∧ (t.getV 15).toNat = flag) ∧
      (x = 15 → (t.getV 15).toNat =
        match s.cfg.vfOrder with
        | .flagThenResult => sum % 256
        | .resultThenFlag => flag) ∧
      t.pc.toNat = (s.pc.toNat + 2) % 2 ^ 16 ∧ RegisterFrame s t [x, 15] ∧ SameRecords s t

/-- `8XY5`: the difference modulo 256 in `V[X]`, 1 in `VF` when nothing was borrowed; `X = F` as for `8XY4` (R130). -/
def Obligations.SubtractWritesDifferenceAndNoBorrow : Prop :=
  ∀ (x y : Reg) (s : State),
    let diff := (((s.getV x).toNat : Int) - ((s.getV y).toNat : Int)) % 256
    let flag : Int := if (s.getV y).toNat ≤ (s.getV x).toNat then 1 else 0
    decodeWord (BitVec.ofNat 16 (0x8005 + x.val * 0x100 + y.val * 0x10)) = .subReg x y ∧
    ∃ t : State, exec (.subReg x y) s = .next t ∧
      (x ≠ 15 → ((t.getV x).toNat : Int) = diff ∧ ((t.getV 15).toNat : Int) = flag) ∧
      (x = 15 → ((t.getV 15).toNat : Int) =
        match s.cfg.vfOrder with
        | .flagThenResult => diff
        | .resultThenFlag => flag) ∧
      t.pc.toNat = (s.pc.toNat + 2) % 2 ^ 16 ∧ RegisterFrame s t [x, 15] ∧ SameRecords s t

/-- When `X` is not `F` the two settings of `VF_ORDER` give the same state (R122): running `8XY4` or `8XY5` under the other order
differs only in the parameter itself.
The parameter is the spec's decision D8. -/
def Obligations.VfOrderMattersOnlyForVf : Prop :=
  ∀ (x y : Reg) (o : VfOrder) (s t : State), x ≠ 15 →
    (exec (.addReg x y) s = .next t →
      exec (.addReg x y) { s with cfg := { s.cfg with vfOrder := o } } =
        .next { t with cfg := { s.cfg with vfOrder := o } }) ∧
    (exec (.subReg x y) s = .next t →
      exec (.subReg x y) { s with cfg := { s.cfg with vfOrder := o } } =
        .next { t with cfg := { s.cfg with vfOrder := o } })

/-- `ANNN` (R131). -/
def Obligations.SetIndexWritesNnn : Prop :=
  ∀ (nnn : Addr12) (s : State),
    decodeWord (BitVec.ofNat 16 (0xA000 + nnn.toNat)) = .ldI nnn ∧
    ∃ t : State, exec (.ldI nnn) s = .next t ∧ t.i.toNat = nnn.toNat ∧
      t.pc.toNat = (s.pc.toNat + 2) % 2 ^ 16 ∧ SameV s t [] ∧ SameMem s t ∧ SameStack s t ∧ SameTimers s t ∧
      SameDisplay s t ∧ SameHost s t ∧ SameRecords s t

/-- `CXNN` (R133): the drawn byte, whatever it is, masked by `NN`; the next draw is another one. The drawn byte is a free value of the
model (log entry 1). -/
def Obligations.RandomIsDrawAndMask : Prop :=
  ∀ (x : Reg) (nn : Byte) (s : State),
    decodeWord (BitVec.ofNat 16 (0xC000 + x.val * 0x100 + nn.toNat)) = .rnd x nn ∧
    ∃ t : State, exec (.rnd x nn) s = .next t ∧
      (∀ k : Nat, (t.getV x).getLsbD k = ((Config.randByte s.draws).getLsbD k && nn.getLsbD k)) ∧
      t.draws = s.draws + 1 ∧ t.diags = s.diags ∧
      t.pc.toNat = (s.pc.toNat + 2) % 2 ^ 16 ∧ RegisterFrame s t [x]

-- Display (42_display.md).

/-- `00E0` (R151). -/
def Obligations.ClearTurnsEveryCellOff : Prop :=
  ∀ s : State,
    decodeWord 0x00E0#16 = .cls ∧
    ∃ t : State, exec .cls s = .next t ∧ (∀ (x : Fin 64) (y : Fin 32), Display.cell t.disp x y = false) ∧
      t.dirty = true ∧ t.pc.toNat = (s.pc.toNat + 2) % 2 ^ 16 ∧
      SameV s t [] ∧ t.i = s.i ∧ SameMem s t ∧ SameStack s t ∧ SameTimers s t ∧ SameHost s t ∧ SameRecords s t

/-- One draw's sprite positions are distinct cells (R154). -/
def Obligations.SpritePositionsAreDistinct : Prop :=
  ∀ (x0 y0 : Byte) (r r' c c' : Nat), r ≤ 15 → r' ≤ 15 → c < 8 → c' < 8 →
    columnOf x0 c = columnOf x0 c' → rowOf y0 r = rowOf y0 r' → c = c' ∧ r = r'

/-- `DXYN` in range (R152, R154, R155): the loop's effect is to turn over exactly the cells the sprite covers, computed from the
registers as they were, with `VF = 1` exactly when one of them was on. The operand mapping is the spec's own
presumption (log entry 8). -/
def Obligations.DrawTogglesTheCoveredCells : Prop :=
  ∀ (x y : Reg) (n : Nibble) (s : State), s.SpriteFits n.toNat →
    decodeWord (BitVec.ofNat 16 (0xD000 + x.val * 0x100 + y.val * 0x10 + n.toNat)) = .drw x y n ∧
    ∃ t : State, exec (.drw x y n) s = .next t ∧
      (∀ (cx : Fin 64) (cy : Fin 32), s.Covered x y n cx cy → Display.cell t.disp cx cy = !Display.cell s.disp cx cy) ∧
      (∀ (cx : Fin 64) (cy : Fin 32), ¬ s.Covered x y n cx cy → Display.cell t.disp cx cy = Display.cell s.disp cx cy) ∧
      ((∃ (cx : Fin 64) (cy : Fin 32), s.Covered x y n cx cy ∧ Display.cell s.disp cx cy = true) → t.getV 15 = 1#8) ∧
      (¬ (∃ (cx : Fin 64) (cy : Fin 32), s.Covered x y n cx cy ∧ Display.cell s.disp cx cy = true) → t.getV 15 = 0#8) ∧
      t.dirty = true ∧ t.pc.toNat = (s.pc.toNat + 2) % 2 ^ 16 ∧
      SameV s t [15] ∧ t.i = s.i ∧ SameMem s t ∧ SameStack s t ∧ SameTimers s t ∧ SameHost s t ∧ SameRecords s t

/-- `DXYN` out of range (R153): the fault, before any write, with the last address the sprite would read. The two settings differ at
exactly one sum, `I + N = 4096` with `N` not 0, for an `I` inside memory.
The parameter is the spec's decision D6. -/
def Obligations.DrawOutOfRangeFaults : Prop :=
  (∀ (x y : Reg) (n : Nibble) (s : State), ¬ s.SpriteFits n.toNat →
    exec (.drw x y n) s =
      .next { s with fault := some { code := .spriteOutOfRange, pc := s.pc, word := some (encode (.drw x y n)), addr := some (s.i.toNat + n.toNat - 1) } }) ∧
  (∀ base h : Nat,
    (spriteOutOfRange .access base h = true ↔ 1 ≤ h ∧ base + h - 1 > 0xFFF) ∧
    (spriteOutOfRange .literal base h = true ↔ base + h > 0xFFF) ∧
    (h = 0 → base ≤ 0xFFF → spriteOutOfRange .access base h = false ∧ spriteOutOfRange .literal base h = false))

/-- Drawing the same sprite twice at the same position restores the buffer, and on an empty buffer a non-empty sprite reports
no collision the first time and one the second (R157). The operand mapping is the spec's own presumption
(log entry 8). -/
def Obligations.DrawingTwiceRestores : Prop :=
  ∀ (x y : Reg) (n : Nibble) (s : State), s.SpriteFits n.toNat →
    ∃ t : State, exec (.drw x y n) s = .next t ∧
      (t.getV x = s.getV x → t.getV y = s.getV y →
        ∃ u : State, exec (.drw x y n) t = .next u ∧ u.disp = s.disp ∧
          (s.disp = Display.blank → (∃ r : Nat, r < n.toNat ∧ s.mem.read (s.i.toNat + r) ≠ 0#8) →
            t.getV 15 = 0#8 ∧ u.getV 15 = 1#8))

-- Keys and timers (43_keys_timers.md).

/-- `EX9E` and `EXA1` (R170, R171, R172): the key level named by `V[X]` decides, and an index above 15 faults.
The fault is the spec's decision D9. -/
def Obligations.KeySkipsReadTheLatch : Prop :=
  ∀ (x : Reg) (s : State),
    decodeWord (BitVec.ofNat 16 (0xE09E + x.val * 0x100)) = .skp x ∧
    decodeWord (BitVec.ofNat 16 (0xE0A1 + x.val * 0x100)) = .sknp x ∧
    (∀ k : Key, k.val = (s.getV x).toNat →
      (∃ t : State, exec (.skp x) s = .next t ∧ RegisterFrame s t [] ∧ SameRecords s t ∧
        (s.keyLevel k = true → t.pc.toNat = (s.pc.toNat + 4) % 2 ^ 16) ∧
        (s.keyLevel k = false → t.pc.toNat = (s.pc.toNat + 2) % 2 ^ 16)) ∧
      (∃ t : State, exec (.sknp x) s = .next t ∧ RegisterFrame s t [] ∧ SameRecords s t ∧
        (s.keyLevel k = false → t.pc.toNat = (s.pc.toNat + 4) % 2 ^ 16) ∧
        (s.keyLevel k = true → t.pc.toNat = (s.pc.toNat + 2) % 2 ^ 16))) ∧
    (0xF < (s.getV x).toNat →
      exec (.skp x) s =
        .next { s with fault := some { code := .keyIndexOutOfRange, pc := s.pc, word := some (encode (.skp x)), addr := some (s.getV x).toNat } } ∧
      exec (.sknp x) s =
        .next { s with fault := some { code := .keyIndexOutOfRange, pc := s.pc, word := some (encode (.sknp x)), addr := some (s.getV x).toNat } })

/-- `FX15` and `FX18` (R174, R175): each writes its own timer from `V[X]`. -/
def Obligations.TimerWritesSetTheirTimer : Prop :=
  ∀ (x : Reg) (s : State),
    decodeWord (BitVec.ofNat 16 (0xF015 + x.val * 0x100)) = .ldDtVx x ∧
    decodeWord (BitVec.ofNat 16 (0xF018 + x.val * 0x100)) = .ldStVx x ∧
    (∃ t : State, exec (.ldDtVx x) s = .next t ∧ t.dt = s.getV x ∧ t.st = s.st ∧
      t.pc.toNat = (s.pc.toNat + 2) % 2 ^ 16 ∧ SameV s t [] ∧ t.i = s.i ∧ SameMem s t ∧ SameStack s t ∧
      SameDisplay s t ∧ SameHost s t ∧ SameRecords s t) ∧
    (∃ t : State, exec (.ldStVx x) s = .next t ∧ t.st = s.getV x ∧ t.dt = s.dt ∧
      t.pc.toNat = (s.pc.toNat + 2) % 2 ^ 16 ∧ SameV s t [] ∧ t.i = s.i ∧ SameMem s t ∧ SameStack s t ∧
      SameDisplay s t ∧ SameHost s t ∧ SameRecords s t)

-- Unrecognized words (44_unrecognized.md).

/-- Executing an unrecognized word (R190): `pc + 2` and one diagnostic carrying the address and the word (R191), nothing else. A step at
any word of the unrecognized space, read by its bits, does just that.
The record that keeps the diagnostic is the model's (log entry 2). -/
def Obligations.UnrecognizedWordOnlyAdvances : Prop :=
  (∀ (w : Word) (s : State),
    ∃ t : State, exec (.unrecognized w) s = .next t ∧ t.pc.toNat = (s.pc.toNat + 2) % 2 ^ 16 ∧
      t.diags = { pc := s.pc, word := w } :: s.diags ∧ t.draws = s.draws ∧ RegisterFrame s t []) ∧
  (∀ s : State, s.fault = none → s.fetchable = true → unrecognizedWord s.fetchWord = true →
    step s = .next { s with pc := s.pc + 2#16, diags := { pc := s.pc, word := s.fetchWord } :: s.diags })

/-- A program that runs off its image into zero bytes reaches `pc = 0x1000` one unrecognized word at a time, and the next step
raises `FetchOutOfRange` (R192). Both the run and the count of diagnostics are the model's: `core.run` issues steps alone, with no
tick or key write between them (log entry 5), and the diagnostics stand in its own record of outputs (log entry 2). -/
def Obligations.RunningOffTheImageEndsAtTheTop : Prop :=
  ∀ s : State, s.fault = none → s.pc.toNat % 2 = 0 → s.pc.toNat ≤ 0x1000 →
    (∀ a : Nat, s.pc.toNat ≤ a → a ≤ 0xFFF → s.mem.read a = 0#8) →
    ∃ t : State,
      Sys2Proof.core.run ((0x1000 - s.pc.toNat) / 2) s = .next t ∧ t.pc = 0x1000#16 ∧ t.fault = none ∧
      t.diags.length = s.diags.length + (0x1000 - s.pc.toNat) / 2 ∧ RegisterFrame s t [] ∧ t.draws = s.draws ∧
      step t = .next { t with fault := some { code := .fetchOutOfRange, pc := 0x1000#16, word := none, addr := some 0x1001 } }

-- The host's operations (60_exceptions.md, 70_reset_and_hazards.md).

/-- `TICK` (R215): each timer on its own goes down by 1 and never below 0; nothing else changes. -/
def Obligations.TickDecrementsBothTimers : Prop :=
  ∀ s : State,
    (s.dt.toNat > 0 → s.tick.dt.toNat + 1 = s.dt.toNat) ∧ (s.dt.toNat = 0 → s.tick.dt = s.dt) ∧
      (s.st.toNat > 0 → s.tick.st.toNat + 1 = s.st.toNat) ∧ (s.st.toNat = 0 → s.tick.st = s.st) ∧
      s.tick.pc = s.pc ∧ s.tick.i = s.i ∧ SameV s s.tick [] ∧ SameMem s s.tick ∧ SameStack s s.tick ∧
      SameDisplay s s.tick ∧ SameHost s s.tick ∧ SameRecords s s.tick

/-- Ticks count a timer down from its last value and stop at 0, and steps between them change nothing of it unless they execute its
writer (R216, R217): along any session of ticks, key writes, dirty clears and steps that never execute `FX15`, the delay timer is its
first value less the number of ticks. A step executes the word at `pc` only in a block that is not faulted, at a `pc` that can be
fetched from.
Sessions are the model's (log entry 6). -/
def Obligations.DelayTimerCountsTicksNotSteps : Prop :=
  ∀ (ops : List Op) (σ τ : Session),
    (∀ op ∈ ops, op ≠ .reset) →
    (∀ (done todo : List Op) (ρ : Session), ops = done ++ .step :: todo → σ.play done = some ρ →
      ρ.block.fault = none → ρ.block.fetchable = true →
      ∀ x : Reg, decodeWord ρ.block.fetchWord ≠ .ldDtVx x) →
    σ.play ops = some τ →
    τ.block.dt.toNat = σ.block.dt.toNat - ops.count .tick

/-- `KEY_WRITE` (R221, R222) writes one level, the last write winning; `DIRTY_CLEAR` (R223) clears one flag; nothing else changes. -/
def Obligations.KeyWriteAndDirtyClearChangeOneThing : Prop :=
  ∀ (s : State) (k : Key) (level : Bool),
    (s.keyWrite k level).keyLevel k = level ∧
      (∀ j : Key, j ≠ k → (s.keyWrite k level).keyLevel j = s.keyLevel j) ∧
      (∀ first : Bool, (s.keyWrite k first).keyWrite k level = s.keyWrite k level) ∧
      { s.keyWrite k level with keys := s.keys } = s ∧
      s.dirtyClear.dirty = false ∧ { s.dirtyClear with dirty := s.dirty } = s

/-- `LOAD` (R244, R245): more than 3584 bytes fail and change nothing; otherwise the bytes stand verbatim from
`0x200` on, every other address reads as before (0 right after reset), and nothing else changes. What a session answers
to it is the model's reading of the host (log entry 6). -/
def Obligations.LoadCopiesOrFails : Prop :=
  ∀ (s : State) (bytes : List Byte), s.mem.wf = true →
    (bytes.length > 3584 →
      s.load bytes = none ∧
        ∀ σ : Session, σ.block = s → σ.phase = .fresh →
          ∃ ρ : Session, σ.perform (.load bytes) = .done ρ .loadError ∧ ρ.block = s) ∧
    (bytes.length ≤ 3584 →
      ∃ t : State, s.load bytes = some t ∧ t.mem.wf = true ∧
        (∀ k : Nat, (h : k < bytes.length) → t.mem.read (0x200 + k) = bytes[k]) ∧
        (∀ a : Nat, a < 0x200 ∨ 0x200 + bytes.length ≤ a →
          t.mem.read a = s.mem.read a ∧ (∀ c : Config, s = State.resetWith c → t.mem.read a = 0#8)) ∧
        { t with mem := s.mem } = s ∧
        ∀ σ : Session, σ.block = s → σ.phase = .fresh →
          ∃ ρ : Session, σ.perform (.load bytes) = .done ρ .ok ∧ ρ.block = t)

/-- `RESET` (R240) discards all state, at any time. The parameters and the count of random draws are the model's own and stay (log
entries 1 and 3).
That a running block can be reset is the spec's decision D21. -/
def Obligations.ResetDiscardsAllState : Prop :=
  ∀ σ : Session,
    ∃ t : State, σ.perform .reset = .done { block := t, phase := .fresh } .silent ∧
      t = { State.resetWith σ.block.cfg with draws := σ.block.draws } ∧ t.Inv

/-- The host's boot duties (R247), as the session enforces them: no step before a successful load, none after a load error, and no second
load. The session and its phases are the model's reading of a duty the block does not check (log entry 6). -/
def Obligations.BootDutiesAreEnforced : Prop :=
  ∀ σ : Session,
    (σ.phase = .fresh → σ.perform .step = .noMove .stepBeforeLoad) ∧
    (σ.phase = .loadFailed → σ.perform .step = .noMove .stepAfterLoadError) ∧
    (σ.phase = .loaded → ∃ (ρ : Session) (out : Output), σ.perform .step = .done ρ out ∧ ρ.block = σ.block.afterStep) ∧
    (∀ bytes : List Byte, σ.phase ≠ .fresh → σ.perform (.load bytes) = .noMove .secondLoad) ∧
    (∀ bytes : List Byte, σ.phase = .fresh →
      ∃ (ρ : Session) (out : Output), σ.perform (.load bytes) = .done ρ out ∧
        ((ρ.phase = .loaded ∧ bytes.length ≤ 3584) ∨ (ρ.phase = .loadFailed ∧ 3584 < bytes.length))) ∧
    (∀ op : Op, op = .tick ∨ op = .dirtyClear ∨ op = .reset ∨ (∃ (k : Key) (level : Bool), op = .keyWrite k level) →
      ∃ ρ : Session, σ.perform op = .done ρ .silent)
end

