-- ==== Sys2Proof/Laws/Encode.lean ====
section
/-! SUPPORT. Laws of the encoding: each field as arithmetic on the word, each format's fields read back, each word
put together again from its fields, and the bytes of a word. -/

namespace Sys2Proof

-- Fields as arithmetic.

theorem opField_toNat (w : Word) : (opField w).toNat = w.toNat / 0x1000 := by
  have := w.isLt
  simp only [opField, BitVec.extractLsb'_toNat, Nat.shiftRight_eq_div_pow]
  omega

theorem xField_val (w : Word) : (xField w).val = w.toNat / 0x100 % 16 := by
  simp only [xField, BitVec.extractLsb'_toNat, Nat.shiftRight_eq_div_pow]

theorem yField_val (w : Word) : (yField w).val = w.toNat / 0x10 % 16 := by
  simp only [yField, BitVec.extractLsb'_toNat, Nat.shiftRight_eq_div_pow]

theorem nField_toNat (w : Word) : (nField w).toNat = w.toNat % 16 := by
  simp only [nField, BitVec.extractLsb'_toNat, Nat.shiftRight_eq_div_pow]
  omega

theorem nnField_toNat (w : Word) : (nnField w).toNat = w.toNat % 256 := by
  simp only [nnField, BitVec.extractLsb'_toNat, Nat.shiftRight_eq_div_pow]
  omega

theorem nnnField_toNat (w : Word) : (nnnField w).toNat = w.toNat % 4096 := by
  simp only [nnnField, BitVec.extractLsb'_toNat, Nat.shiftRight_eq_div_pow]
  omega

-- Formats as arithmetic.

theorem formatA_toNat (op : Nibble) (nnn : Addr12) :
    (formatA op nnn).toNat = op.toNat * 0x1000 + nnn.toNat := by
  have := op.isLt
  have := nnn.isLt
  rw [formatA, BitVec.toNat_ofNat]
  omega

theorem formatB_toNat (op : Nibble) (x : Reg) (nn : Byte) :
    (formatB op x nn).toNat = op.toNat * 0x1000 + x.val * 0x100 + nn.toNat := by
  have := op.isLt
  have := x.isLt
  have := nn.isLt
  rw [formatB, BitVec.toNat_ofNat]
  omega

theorem formatC_toNat (op : Nibble) (x y : Reg) (n : Nibble) :
    (formatC op x y n).toNat = op.toNat * 0x1000 + x.val * 0x100 + y.val * 0x10 + n.toNat := by
  have := op.isLt
  have := x.isLt
  have := y.isLt
  have := n.isLt
  rw [formatC, BitVec.toNat_ofNat]
  omega

-- A format's fields read back.

@[simp] theorem opField_formatA (op : Nibble) (nnn : Addr12) : opField (formatA op nnn) = op := by
  have := op.isLt
  have := nnn.isLt
  apply BitVec.eq_of_toNat_eq
  rw [opField_toNat, formatA_toNat]
  omega

@[simp] theorem nnnField_formatA (op : Nibble) (nnn : Addr12) : nnnField (formatA op nnn) = nnn := by
  have := op.isLt
  have := nnn.isLt
  apply BitVec.eq_of_toNat_eq
  rw [nnnField_toNat, formatA_toNat]
  omega

@[simp] theorem opField_formatB (op : Nibble) (x : Reg) (nn : Byte) : opField (formatB op x nn) = op := by
  have := op.isLt
  have := x.isLt
  have := nn.isLt
  apply BitVec.eq_of_toNat_eq
  rw [opField_toNat, formatB_toNat]
  omega

@[simp] theorem xField_formatB (op : Nibble) (x : Reg) (nn : Byte) : xField (formatB op x nn) = x := by
  have := op.isLt
  have := x.isLt
  have := nn.isLt
  apply Fin.ext
  rw [xField_val, formatB_toNat]
  omega

@[simp] theorem nnField_formatB (op : Nibble) (x : Reg) (nn : Byte) : nnField (formatB op x nn) = nn := by
  have := op.isLt
  have := x.isLt
  have := nn.isLt
  apply BitVec.eq_of_toNat_eq
  rw [nnField_toNat, formatB_toNat]
  omega

@[simp] theorem opField_formatC (op : Nibble) (x y : Reg) (n : Nibble) : opField (formatC op x y n) = op := by
  have := op.isLt
  have := x.isLt
  have := y.isLt
  have := n.isLt
  apply BitVec.eq_of_toNat_eq
  rw [opField_toNat, formatC_toNat]
  omega

@[simp] theorem xField_formatC (op : Nibble) (x y : Reg) (n : Nibble) : xField (formatC op x y n) = x := by
  have := op.isLt
  have := x.isLt
  have := y.isLt
  have := n.isLt
  apply Fin.ext
  rw [xField_val, formatC_toNat]
  omega

@[simp] theorem yField_formatC (op : Nibble) (x y : Reg) (n : Nibble) : yField (formatC op x y n) = y := by
  have := op.isLt
  have := x.isLt
  have := y.isLt
  have := n.isLt
  apply Fin.ext
  rw [yField_val, formatC_toNat]
  omega

@[simp] theorem nField_formatC (op : Nibble) (x y : Reg) (n : Nibble) : nField (formatC op x y n) = n := by
  have := op.isLt
  have := x.isLt
  have := y.isLt
  have := n.isLt
  apply BitVec.eq_of_toNat_eq
  rw [nField_toNat, formatC_toNat]
  omega

-- A word is put together from its fields.

theorem formatA_fields (w : Word) : formatA (opField w) (nnnField w) = w := by
  apply BitVec.eq_of_toNat_eq
  rw [formatA_toNat, opField_toNat, nnnField_toNat]
  omega

theorem formatB_fields (w : Word) : formatB (opField w) (xField w) (nnField w) = w := by
  have := w.isLt
  apply BitVec.eq_of_toNat_eq
  rw [formatB_toNat, opField_toNat, xField_val, nnField_toNat]
  omega

theorem formatC_fields (w : Word) : formatC (opField w) (xField w) (yField w) (nField w) = w := by
  have := w.isLt
  apply BitVec.eq_of_toNat_eq
  rw [formatC_toNat, opField_toNat, xField_val, yField_val, nField_toNat]
  omega

-- Bytes.

theorem hiByte_toNat (w : Word) : (hiByte w).toNat = w.toNat / 256 := by
  have := w.isLt
  simp only [hiByte, BitVec.extractLsb'_toNat, Nat.shiftRight_eq_div_pow]
  omega

theorem loByte_toNat (w : Word) : (loByte w).toNat = w.toNat % 256 := by
  simp only [loByte, BitVec.extractLsb'_toNat, Nat.shiftRight_eq_div_pow]
  omega

/-- A word is the word of its two bytes. -/
@[simp] theorem wordOfBytes_bytes (w : Word) : wordOfBytes (hiByte w) (loByte w) = w := by
  have := w.isLt
  apply BitVec.eq_of_toNat_eq
  rw [wordOfBytes, BitVec.toNat_ofNat, hiByte_toNat, loByte_toNat]
  omega

end Sys2Proof
end

