-- ==== Sys2Proof/Laws/Decode.lean ====
section
/-! SUPPORT. Laws of the decoder: the masks and fields as arithmetic on the word, and one elimination for the
whole decode table. -/

namespace Sys2Proof

-- The spec's masks as arithmetic.

theorem and_F000_toNat (w : Word) : (w &&& 0xF000#16).toNat = w.toNat / 0x1000 * 0x1000 := by
  have h : w &&& 0xF000#16 = (w >>> 12) <<< 12 := by
    apply BitVec.eq_of_getLsbD_eq
    intro k hk
    rw [BitVec.getLsbD_and, BitVec.getLsbD_shiftLeft, BitVec.getLsbD_ushiftRight]
    have : k = 0 ∨ k = 1 ∨ k = 2 ∨ k = 3 ∨ k = 4 ∨ k = 5 ∨ k = 6 ∨ k = 7 ∨ k = 8 ∨ k = 9 ∨ k = 10 ∨ k = 11 ∨
        k = 12 ∨ k = 13 ∨ k = 14 ∨ k = 15 := by omega
    rcases this with h | h | h | h | h | h | h | h | h | h | h | h | h | h | h | h <;> subst h <;> simp
  have := w.isLt
  rw [h, BitVec.toNat_shiftLeft, BitVec.toNat_ushiftRight, Nat.shiftLeft_eq, Nat.shiftRight_eq_div_pow]
  omega

theorem and_000F_toNat (w : Word) : (w &&& 0x000F#16).toNat = w.toNat % 16 := by
  rw [BitVec.toNat_and]
  exact Nat.and_two_pow_sub_one_eq_mod w.toNat 4

theorem and_00FF_toNat (w : Word) : (w &&& 0x00FF#16).toNat = w.toNat % 256 := by
  rw [BitVec.toNat_and]
  exact Nat.and_two_pow_sub_one_eq_mod w.toNat 8

@[simp] theorem and_FFFF (w : Word) : w &&& 0xFFFF#16 = w := by
  rw [show 0xFFFF#16 = BitVec.allOnes 16 by decide, BitVec.and_allOnes]

theorem and_F00F_toNat (w : Word) :
    (w &&& 0xF00F#16).toNat = w.toNat / 0x1000 * 0x1000 + w.toNat % 16 := by
  have h : w &&& 0xF00F#16 = (w &&& 0xF000#16) + (w &&& 0x000F#16) := by
    rw [BitVec.add_eq_or_of_and_eq_zero]
    · rw [← BitVec.and_or_distrib_left]; rfl
    · rw [BitVec.and_assoc, BitVec.and_comm (0xF000#16), BitVec.and_assoc]; simp
  have := w.isLt
  rw [h, BitVec.toNat_add, and_F000_toNat, and_000F_toNat]
  omega

theorem and_F0FF_toNat (w : Word) :
    (w &&& 0xF0FF#16).toNat = w.toNat / 0x1000 * 0x1000 + w.toNat % 256 := by
  have h : w &&& 0xF0FF#16 = (w &&& 0xF000#16) + (w &&& 0x00FF#16) := by
    rw [BitVec.add_eq_or_of_and_eq_zero]
    · rw [← BitVec.and_or_distrib_left]; rfl
    · rw [BitVec.and_assoc, BitVec.and_comm (0xF000#16), BitVec.and_assoc]; simp
  have := w.isLt
  rw [h, BitVec.toNat_add, and_F000_toNat, and_00FF_toNat]
  omega

-- Fields tested, as arithmetic.

theorem opField_eq_iff (w : Word) (k : Nibble) : opField w = k ↔ w.toNat / 0x1000 = k.toNat := by
  rw [← opField_toNat]
  exact ⟨fun h => by rw [h], fun h => BitVec.eq_of_toNat_eq h⟩

theorem nField_eq_iff (w : Word) (k : Nibble) : nField w = k ↔ w.toNat % 16 = k.toNat := by
  rw [← nField_toNat]
  exact ⟨fun h => by rw [h], fun h => BitVec.eq_of_toNat_eq h⟩

theorem nnField_eq_iff (w : Word) (k : Byte) : nnField w = k ↔ w.toNat % 256 = k.toNat := by
  rw [← nnField_toNat]
  exact ⟨fun h => by rw [h], fun h => BitVec.eq_of_toNat_eq h⟩

theorem word_eq_iff (w k : Word) : w = k ↔ w.toNat = k.toNat :=
  ⟨fun h => by rw [h], fun h => BitVec.eq_of_toNat_eq h⟩

-- The decoder.

/-- What is left of the decode table when no instruction row matches, by fields. -/
def NoRow (w : Word) : Prop :=
  (opField w = 0x0#4 ∧ w ≠ 0x00E0#16 ∧ w ≠ 0x00EE#16) ∨
    (opField w = 0x8#4 ∧ nField w ≠ 0x0#4 ∧ nField w ≠ 0x1#4 ∧ nField w ≠ 0x2#4 ∧ nField w ≠ 0x3#4 ∧
      nField w ≠ 0x4#4 ∧ nField w ≠ 0x5#4) ∨
    (opField w = 0xE#4 ∧ nnField w ≠ 0x9E#8 ∧ nnField w ≠ 0xA1#8) ∨
    (opField w = 0xF#4 ∧ nnField w ≠ 0x07#8 ∧ nnField w ≠ 0x15#8 ∧ nnField w ≠ 0x18#8) ∨
    opField w = 0x5#4 ∨ opField w = 0x9#4 ∨ opField w = 0xB#4

/-- The three families without an instruction are what the other thirteen leave. -/
theorem families_left (a : Nibble) (h0 : a ≠ 0#4) (h1 : a ≠ 1#4) (h2 : a ≠ 2#4) (h3 : a ≠ 3#4) (h4 : a ≠ 4#4)
    (h6 : a ≠ 6#4) (h7 : a ≠ 7#4) (h8 : a ≠ 8#4) (hA : a ≠ 10#4) (hC : a ≠ 12#4) (hD : a ≠ 13#4) (hE : a ≠ 14#4)
    (hF : a ≠ 15#4) : a = 5#4 ∨ a = 9#4 ∨ a = 11#4 := by
  bv_omega

/-- Everything the decoder can do: to show something of the decoded instruction, show it for each row under the
fields that select the row. -/
theorem decodeWord_elim {P : Instr → Prop} (w : Word)
    (cls : w = 0x00E0#16 → P .cls) (ret : w = 0x00EE#16 → P .ret)
    (jp : opField w = 0x1#4 → P (.jp (nnnField w))) (call : opField w = 0x2#4 → P (.call (nnnField w)))
    (se : opField w = 0x3#4 → P (.se (xField w) (nnField w)))
    (sne : opField w = 0x4#4 → P (.sne (xField w) (nnField w)))
    (ldByte : opField w = 0x6#4 → P (.ldByte (xField w) (nnField w)))
    (addByte : opField w = 0x7#4 → P (.addByte (xField w) (nnField w)))
    (ldReg : opField w = 0x8#4 → nField w = 0x0#4 → P (.ldReg (xField w) (yField w)))
    (orReg : opField w = 0x8#4 → nField w = 0x1#4 → P (.orReg (xField w) (yField w)))
    (andReg : opField w = 0x8#4 → nField w = 0x2#4 → P (.andReg (xField w) (yField w)))
    (xorReg : opField w = 0x8#4 → nField w = 0x3#4 → P (.xorReg (xField w) (yField w)))
    (addReg : opField w = 0x8#4 → nField w = 0x4#4 → P (.addReg (xField w) (yField w)))
    (subReg : opField w = 0x8#4 → nField w = 0x5#4 → P (.subReg (xField w) (yField w)))
    (ldI : opField w = 0xA#4 → P (.ldI (nnnField w)))
    (rnd : opField w = 0xC#4 → P (.rnd (xField w) (nnField w)))
    (drw : opField w = 0xD#4 → P (.drw (xField w) (yField w) (nField w)))
    (skp : opField w = 0xE#4 → nnField w = 0x9E#8 → P (.skp (xField w)))
    (sknp : opField w = 0xE#4 → nnField w = 0xA1#8 → P (.sknp (xField w)))
    (ldVxDt : opField w = 0xF#4 → nnField w = 0x07#8 → P (.ldVxDt (xField w)))
    (ldDtVx : opField w = 0xF#4 → nnField w = 0x15#8 → P (.ldDtVx (xField w)))
    (ldStVx : opField w = 0xF#4 → nnField w = 0x18#8 → P (.ldStVx (xField w)))
    (unrecognized : NoRow w → P (.unrecognized w)) : P (decodeWord w) := by
  unfold decodeWord
  by_cases h0 : opField w = 0x0#4
  · rw [if_pos h0]
    unfold decodeFixed
    by_cases a : w = 0x00E0#16
    · rw [if_pos a]; exact cls a
    · by_cases b : w = 0x00EE#16
      · rw [if_neg a, if_pos b]; exact ret b
      · rw [if_neg a, if_neg b]; exact unrecognized (.inl ⟨h0, a, b⟩)
  rw [if_neg h0]
  by_cases h1 : opField w = 0x1#4
  · rw [if_pos h1]; exact jp h1
  rw [if_neg h1]
  by_cases h2 : opField w = 0x2#4
  · rw [if_pos h2]; exact call h2
  rw [if_neg h2]
  by_cases h3 : opField w = 0x3#4
  · rw [if_pos h3]; exact se h3
  rw [if_neg h3]
  by_cases h4 : opField w = 0x4#4
  · rw [if_pos h4]; exact sne h4
  rw [if_neg h4]
  by_cases h6 : opField w = 0x6#4
  · rw [if_pos h6]; exact ldByte h6
  rw [if_neg h6]
  by_cases h7 : opField w = 0x7#4
  · rw [if_pos h7]; exact addByte h7
  rw [if_neg h7]
  by_cases h8 : opField w = 0x8#4
  · rw [if_pos h8]
    unfold decodeRegReg
    by_cases n0 : nField w = 0x0#4
    · rw [if_pos n0]; exact ldReg h8 n0
    rw [if_neg n0]
    by_cases n1 : nField w = 0x1#4
    · rw [if_pos n1]; exact orReg h8 n1
    rw [if_neg n1]
    by_cases n2 : nField w = 0x2#4
    · rw [if_pos n2]; exact andReg h8 n2
    rw [if_neg n2]
    by_cases n3 : nField w = 0x3#4
    · rw [if_pos n3]; exact xorReg h8 n3
    rw [if_neg n3]
    by_cases n4 : nField w = 0x4#4
    · rw [if_pos n4]; exact addReg h8 n4
    rw [if_neg n4]
    by_cases n5 : nField w = 0x5#4
    · rw [if_pos n5]; exact subReg h8 n5
    rw [if_neg n5]
    exact unrecognized (.inr (.inl ⟨h8, n0, n1, n2, n3, n4, n5⟩))
  rw [if_neg h8]
  by_cases hA : opField w = 0xA#4
  · rw [if_pos hA]; exact ldI hA
  rw [if_neg hA]
  by_cases hC : opField w = 0xC#4
  · rw [if_pos hC]; exact rnd hC
  rw [if_neg hC]
  by_cases hD : opField w = 0xD#4
  · rw [if_pos hD]; exact drw hD
  rw [if_neg hD]
  by_cases hE : opField w = 0xE#4
  · rw [if_pos hE]
    unfold decodeKeySkip
    by_cases a : nnField w = 0x9E#8
    · rw [if_pos a]; exact skp hE a
    rw [if_neg a]
    by_cases b : nnField w = 0xA1#8
    · rw [if_pos b]; exact sknp hE b
    rw [if_neg b]
    exact unrecognized (.inr (.inr (.inl ⟨hE, a, b⟩)))
  rw [if_neg hE]
  by_cases hF : opField w = 0xF#4
  · rw [if_pos hF]
    unfold decodeTimer
    by_cases a : nnField w = 0x07#8
    · rw [if_pos a]; exact ldVxDt hF a
    rw [if_neg a]
    by_cases b : nnField w = 0x15#8
    · rw [if_pos b]; exact ldDtVx hF b
    rw [if_neg b]
    by_cases c : nnField w = 0x18#8
    · rw [if_pos c]; exact ldStVx hF c
    rw [if_neg c]
    exact unrecognized (.inr (.inr (.inr (.inl ⟨hF, a, b, c⟩))))
  rw [if_neg hF]
  exact unrecognized (.inr (.inr (.inr (.inr (families_left _ h0 h1 h2 h3 h4 h6 h7 h8 hA hC hD hE hF)))))
/-- The words of the instructions that can fault, by the spec's masks. -/
theorem decodeWord_faulting (w : Word) :
    (decodeWord w = .ret ↔ w = 0x00EE#16) ∧
    ((∃ nnn, decodeWord w = .call nnn) ↔ w &&& 0xF000#16 = 0x2000#16) ∧
    ((∃ x y, decodeWord w = .drw x y (nField w)) ↔ w &&& 0xF000#16 = 0xD000#16) ∧
    (∀ x y n, decodeWord w = .drw x y n → n.toNat = w.toNat % 16) ∧
    ((∃ x, decodeWord w = .skp x ∨ decodeWord w = .sknp x) ↔
      w &&& 0xF0FF#16 = 0xE09E#16 ∨ w &&& 0xF0FF#16 = 0xE0A1#16) ∧
    (∀ x, decodeWord w = .skp x ∨ decodeWord w = .sknp x → x = xField w) := by
  have := w.isLt
  apply decodeWord_elim w (P := fun i =>
    (i = .ret ↔ w = 0x00EE#16) ∧ ((∃ nnn, i = .call nnn) ↔ w &&& 0xF000#16 = 0x2000#16) ∧
    ((∃ x y, i = .drw x y (nField w)) ↔ w &&& 0xF000#16 = 0xD000#16) ∧
    (∀ x y n, i = .drw x y n → n.toNat = w.toNat % 16) ∧
    ((∃ x, i = .skp x ∨ i = .sknp x) ↔ w &&& 0xF0FF#16 = 0xE09E#16 ∨ w &&& 0xF0FF#16 = 0xE0A1#16) ∧
    (∀ x, i = .skp x ∨ i = .sknp x → x = xField w))
  all_goals
    simp only [word_eq_iff, and_F000_toNat, and_F0FF_toNat, NoRow, opField_eq_iff, nField_eq_iff, nnField_eq_iff,
      BitVec.toNat_ofNat, ne_eq]
    intros
    simp [nField_toNat]
    try omega

end Sys2Proof
end

