-- ==== Sys2Proof/Laws/Memory.lean ====
section
/-! SUPPORT. Laws of memory: every operation keeps the canonical form, a read finds what was last written, and
a canonical memory is determined by its reads. -/

namespace Sys2Proof.Machine

@[simp] theorem Memory.read_nil (a : Nat) : Memory.read [] a = unlistedByte := rfl

theorem Memory.read_cons (k : Nat) (b : Byte) (m : Memory) (a : Nat) :
    Memory.read ((k, b) :: m) a = if k = a then b else Memory.read m a := rfl

theorem Memory.wfFrom_cons {lo k : Nat} {b : Byte} {m : Memory} :
    Memory.wfFrom lo ((k, b) :: m) = true ↔
      lo ≤ k ∧ k ≤ addrMax ∧ b ≠ unlistedByte ∧ Memory.wfFrom (k + 1) m = true := by
  simp only [Memory.wfFrom, inMemory, Bool.and_eq_true, decide_eq_true_eq, bne_iff_ne, and_assoc]

theorem Memory.wfFrom_mono {lo lo' : Nat} {m : Memory} (h : lo' ≤ lo) (hm : Memory.wfFrom lo m = true) :
    Memory.wfFrom lo' m = true := by
  cases m with
  | nil => rfl
  | cons c m =>
    obtain ⟨k, b⟩ := c
    obtain ⟨h1, h2⟩ := Memory.wfFrom_cons.1 hm
    exact Memory.wfFrom_cons.2 ⟨Nat.le_trans h h1, h2⟩

/-- Below its first cell a canonical memory reads as unlisted. -/
theorem Memory.read_below {lo a : Nat} {m : Memory} (hm : Memory.wfFrom lo m = true) (h : a < lo) :
    Memory.read m a = unlistedByte := by
  induction m generalizing lo with
  | nil => rfl
  | cons c m ih =>
    obtain ⟨k, b⟩ := c
    obtain ⟨h1, -, -, h4⟩ := Memory.wfFrom_cons.1 hm
    rw [Memory.read_cons, if_neg (by omega)]
    exact ih h4 (by omega)

/-- A write leaves every other address alone. -/
theorem Memory.read_write_ne (m : Memory) {a x : Nat} (b : Byte) (h : x ≠ a) :
    Memory.read (Memory.write m a b) x = Memory.read m x := by
  induction m with
  | nil =>
    rw [Memory.write]
    split
    · rfl
    · rw [Memory.read_cons, if_neg (Ne.symm h)]
  | cons c m ih =>
    obtain ⟨k, c⟩ := c
    rw [Memory.write]
    split
    · split
      · rfl
      · rw [Memory.read_cons, if_neg (Ne.symm h)]
    · split
      · next hak =>
        subst hak
        split
        · rw [Memory.read_cons, if_neg (Ne.symm h)]
        · rw [Memory.read_cons, if_neg (Ne.symm h), Memory.read_cons, if_neg (Ne.symm h)]
      · rw [Memory.read_cons, Memory.read_cons, ih]

/-- A read after a write to the same address gives the value written. -/
theorem Memory.read_write_self {lo : Nat} {m : Memory} (hm : Memory.wfFrom lo m = true) (a : Nat) (b : Byte) :
    Memory.read (Memory.write m a b) a = b := by
  induction m generalizing lo with
  | nil =>
    rw [Memory.write]
    split
    · next h => rw [h]; rfl
    · rw [Memory.read_cons, if_pos rfl]
  | cons c m ih =>
    obtain ⟨k, c⟩ := c
    obtain ⟨h1, h2, h3, h4⟩ := Memory.wfFrom_cons.1 hm
    rw [Memory.write]
    split
    · next hlt =>
      split
      · next hb => rw [hb, Memory.read_cons, if_neg (by omega)]; exact Memory.read_below h4 (by omega)
      · rw [Memory.read_cons, if_pos rfl]
    · split
      · next hak =>
        split
        · next hb => rw [hb]; exact Memory.read_below h4 (by omega)
        · rw [Memory.read_cons, if_pos rfl]
      · next hne => rw [Memory.read_cons, if_neg (Ne.symm hne)]; exact ih h4

theorem Memory.wfFrom_write {lo a : Nat} {m : Memory} (hm : Memory.wfFrom lo m = true) (b : Byte)
    (hlo : lo ≤ a) (ha : a ≤ addrMax) : Memory.wfFrom lo (Memory.write m a b) = true := by
  induction m generalizing lo with
  | nil =>
    rw [Memory.write]
    split
    · rfl
    · next hb => exact Memory.wfFrom_cons.2 ⟨hlo, ha, hb, rfl⟩
  | cons c m ih =>
    obtain ⟨k, c⟩ := c
    obtain ⟨h1, h2, h3, h4⟩ := Memory.wfFrom_cons.1 hm
    rw [Memory.write]
    split
    · next hlt =>
      split
      · exact hm
      · next hb =>
        exact Memory.wfFrom_cons.2 ⟨hlo, ha, hb, Memory.wfFrom_cons.2 ⟨by omega, h2, h3, h4⟩⟩
    · next hge =>
      split
      · next hak =>
        split
        · exact Memory.wfFrom_mono (by omega) h4
        · next hb => exact Memory.wfFrom_cons.2 ⟨hlo, ha, hb, by rw [hak]; exact h4⟩
      · next hne => exact Memory.wfFrom_cons.2 ⟨h1, h2, h3, ih h4 (by omega)⟩

/-- A write inside memory keeps the canonical form. -/
theorem Memory.wf_write {m : Memory} (hm : Memory.wf m = true) {a : Nat} (b : Byte) (ha : a ≤ addrMax) :
    Memory.wf (Memory.write m a b) = true :=
  Memory.wfFrom_write hm b (Nat.zero_le a) ha

theorem Memory.read_write {m : Memory} (hm : Memory.wf m = true) (a x : Nat) (b : Byte) :
    Memory.read (Memory.write m a b) x = if x = a then b else Memory.read m x := by
  split
  · next h => rw [h]; exact Memory.read_write_self hm a b
  · next h => exact Memory.read_write_ne m b h

/-- Loading bytes that fit keeps the canonical form. -/
theorem Memory.wf_writeBytes {m : Memory} (hm : Memory.wf m = true) {a : Nat} {bs : List Byte}
    (h : a + bs.length ≤ addrMax + 1) : Memory.wf (Memory.writeBytes m a bs) = true := by
  induction bs generalizing m a with
  | nil => exact hm
  | cons b bs ih =>
    rw [List.length_cons] at h
    exact ih (Memory.wf_write hm b (by omega)) (by omega)

/-- What is outside the bytes loaded reads as before. -/
theorem Memory.read_writeBytes_outside (m : Memory) {a x : Nat} {bs : List Byte}
    (h : x < a ∨ a + bs.length ≤ x) : Memory.read (Memory.writeBytes m a bs) x = Memory.read m x := by
  induction bs generalizing m a with
  | nil => rfl
  | cons b bs ih =>
    rw [List.length_cons] at h
    rw [Memory.writeBytes, ih _ (by omega), Memory.read_write_ne m b (by omega)]

/-- The bytes loaded read back in order. -/
theorem Memory.read_writeBytes_inside {m : Memory} (hm : Memory.wf m = true) {a k : Nat} {bs : List Byte}
    (hfit : a + bs.length ≤ addrMax + 1) (hk : k < bs.length) :
    Memory.read (Memory.writeBytes m a bs) (a + k) = bs[k] := by
  induction bs generalizing m a k with
  | nil => exact absurd hk (Nat.not_lt_zero k)
  | cons b bs ih =>
    rw [List.length_cons] at hfit hk
    have hwf := Memory.wf_write hm b (show a ≤ addrMax by omega)
    rw [Memory.writeBytes]
    cases k with
    | zero => rw [Memory.read_writeBytes_outside _ (by omega)]; exact Memory.read_write_self hm a b
    | succ j =>
      have h := ih (a := a + 1) hwf (by omega) (show j < bs.length by omega)
      rw [show a + (j + 1) = a + 1 + j by omega, h, List.getElem_cons_succ]

/-- The canonical form is canonical: equal reads, equal memories. -/
theorem Memory.eq_of_read {lo : Nat} {m n : Memory} (hm : Memory.wfFrom lo m = true)
    (hn : Memory.wfFrom lo n = true) (h : ∀ a, Memory.read m a = Memory.read n a) : m = n := by
  induction m generalizing lo n with
  | nil =>
    cases n with
    | nil => rfl
    | cons c n =>
      obtain ⟨k, b⟩ := c
      obtain ⟨-, -, hb, -⟩ := Memory.wfFrom_cons.1 hn
      have hk := h k
      rw [Memory.read_nil, Memory.read_cons, if_pos rfl] at hk
      exact absurd hk.symm hb
  | cons c m ih =>
    obtain ⟨k, b⟩ := c
    obtain ⟨h1, h2, h3, h4⟩ := Memory.wfFrom_cons.1 hm
    cases n with
    | nil =>
      have hk := h k
      rw [Memory.read_cons, if_pos rfl, Memory.read_nil] at hk
      exact absurd hk h3
    | cons d n =>
      obtain ⟨j, d⟩ := d
      obtain ⟨g1, g2, g3, g4⟩ := Memory.wfFrom_cons.1 hn
      have hkj : k = j := by
        rcases Nat.lt_trichotomy k j with hlt | heq | hgt
        · have hk := h k
          rw [Memory.read_cons, if_pos rfl, Memory.read_cons, if_neg (by omega),
            Memory.read_below g4 (by omega)] at hk
          exact absurd hk h3
        · exact heq
        · have hj := h j
          rw [Memory.read_cons, if_neg (by omega), Memory.read_below h4 (by omega), Memory.read_cons, if_pos rfl] at hj
          exact absurd hj.symm g3
      subst hkj
      have hb : b = d := by
        have hk := h k
        rw [Memory.read_cons, if_pos rfl, Memory.read_cons, if_pos rfl] at hk
        exact hk
      subst hb
      rw [ih h4 g4 fun a => ?_]
      by_cases hak : k = a
      · subst hak; rw [Memory.read_below h4 (by omega), Memory.read_below g4 (by omega)]
      · have ha := h a
        rw [Memory.read_cons, if_neg hak, Memory.read_cons, if_neg hak] at ha
        exact ha

end Sys2Proof.Machine
end

