-- ==== Sys2Proof/Laws/State.lean ====
section
/-! SUPPORT. Laws of the state: one lemma per field per update, so that no proof unfolds a record update. -/

namespace Sys2Proof.Machine

-- setV

@[simp] theorem State.setV_mem (s : State) (x : Reg) (b : Byte) : (s.setV x b).mem = s.mem := rfl
@[simp] theorem State.setV_v (s : State) (x : Reg) (b : Byte) : (s.setV x b).v = s.v.set x b := rfl
@[simp] theorem State.setV_i (s : State) (x : Reg) (b : Byte) : (s.setV x b).i = s.i := rfl
@[simp] theorem State.setV_pc (s : State) (x : Reg) (b : Byte) : (s.setV x b).pc = s.pc := rfl
@[simp] theorem State.setV_stack (s : State) (x : Reg) (b : Byte) : (s.setV x b).stack = s.stack := rfl
@[simp] theorem State.setV_sp (s : State) (x : Reg) (b : Byte) : (s.setV x b).sp = s.sp := rfl
@[simp] theorem State.setV_dt (s : State) (x : Reg) (b : Byte) : (s.setV x b).dt = s.dt := rfl
@[simp] theorem State.setV_st (s : State) (x : Reg) (b : Byte) : (s.setV x b).st = s.st := rfl
@[simp] theorem State.setV_disp (s : State) (x : Reg) (b : Byte) : (s.setV x b).disp = s.disp := rfl
@[simp] theorem State.setV_dirty (s : State) (x : Reg) (b : Byte) : (s.setV x b).dirty = s.dirty := rfl
@[simp] theorem State.setV_keys (s : State) (x : Reg) (b : Byte) : (s.setV x b).keys = s.keys := rfl
@[simp] theorem State.setV_fault (s : State) (x : Reg) (b : Byte) : (s.setV x b).fault = s.fault := rfl
@[simp] theorem State.setV_cfg (s : State) (x : Reg) (b : Byte) : (s.setV x b).cfg = s.cfg := rfl
@[simp] theorem State.setV_draws (s : State) (x : Reg) (b : Byte) : (s.setV x b).draws = s.draws := rfl
@[simp] theorem State.setV_diags (s : State) (x : Reg) (b : Byte) : (s.setV x b).diags = s.diags := rfl

-- setI

@[simp] theorem State.setI_mem (s : State) (w : Word) : (s.setI w).mem = s.mem := rfl
@[simp] theorem State.setI_v (s : State) (w : Word) : (s.setI w).v = s.v := rfl
@[simp] theorem State.setI_i (s : State) (w : Word) : (s.setI w).i = w := rfl
@[simp] theorem State.setI_pc (s : State) (w : Word) : (s.setI w).pc = s.pc := rfl
@[simp] theorem State.setI_stack (s : State) (w : Word) : (s.setI w).stack = s.stack := rfl
@[simp] theorem State.setI_sp (s : State) (w : Word) : (s.setI w).sp = s.sp := rfl
@[simp] theorem State.setI_dt (s : State) (w : Word) : (s.setI w).dt = s.dt := rfl
@[simp] theorem State.setI_st (s : State) (w : Word) : (s.setI w).st = s.st := rfl
@[simp] theorem State.setI_disp (s : State) (w : Word) : (s.setI w).disp = s.disp := rfl
@[simp] theorem State.setI_dirty (s : State) (w : Word) : (s.setI w).dirty = s.dirty := rfl
@[simp] theorem State.setI_keys (s : State) (w : Word) : (s.setI w).keys = s.keys := rfl
@[simp] theorem State.setI_fault (s : State) (w : Word) : (s.setI w).fault = s.fault := rfl
@[simp] theorem State.setI_cfg (s : State) (w : Word) : (s.setI w).cfg = s.cfg := rfl
@[simp] theorem State.setI_draws (s : State) (w : Word) : (s.setI w).draws = s.draws := rfl
@[simp] theorem State.setI_diags (s : State) (w : Word) : (s.setI w).diags = s.diags := rfl
@[simp] theorem State.setI_getV (s : State) (w : Word) (r : Reg) : (s.setI w).getV r = s.getV r := rfl

-- setDt

@[simp] theorem State.setDt_mem (s : State) (b : Byte) : (s.setDt b).mem = s.mem := rfl
@[simp] theorem State.setDt_v (s : State) (b : Byte) : (s.setDt b).v = s.v := rfl
@[simp] theorem State.setDt_i (s : State) (b : Byte) : (s.setDt b).i = s.i := rfl
@[simp] theorem State.setDt_pc (s : State) (b : Byte) : (s.setDt b).pc = s.pc := rfl
@[simp] theorem State.setDt_stack (s : State) (b : Byte) : (s.setDt b).stack = s.stack := rfl
@[simp] theorem State.setDt_sp (s : State) (b : Byte) : (s.setDt b).sp = s.sp := rfl
@[simp] theorem State.setDt_dt (s : State) (b : Byte) : (s.setDt b).dt = b := rfl
@[simp] theorem State.setDt_st (s : State) (b : Byte) : (s.setDt b).st = s.st := rfl
@[simp] theorem State.setDt_disp (s : State) (b : Byte) : (s.setDt b).disp = s.disp := rfl
@[simp] theorem State.setDt_dirty (s : State) (b : Byte) : (s.setDt b).dirty = s.dirty := rfl
@[simp] theorem State.setDt_keys (s : State) (b : Byte) : (s.setDt b).keys = s.keys := rfl
@[simp] theorem State.setDt_fault (s : State) (b : Byte) : (s.setDt b).fault = s.fault := rfl
@[simp] theorem State.setDt_cfg (s : State) (b : Byte) : (s.setDt b).cfg = s.cfg := rfl
@[simp] theorem State.setDt_draws (s : State) (b : Byte) : (s.setDt b).draws = s.draws := rfl
@[simp] theorem State.setDt_diags (s : State) (b : Byte) : (s.setDt b).diags = s.diags := rfl
@[simp] theorem State.setDt_getV (s : State) (b : Byte) (r : Reg) : (s.setDt b).getV r = s.getV r := rfl

-- setSt

@[simp] theorem State.setSt_mem (s : State) (b : Byte) : (s.setSt b).mem = s.mem := rfl
@[simp] theorem State.setSt_v (s : State) (b : Byte) : (s.setSt b).v = s.v := rfl
@[simp] theorem State.setSt_i (s : State) (b : Byte) : (s.setSt b).i = s.i := rfl
@[simp] theorem State.setSt_pc (s : State) (b : Byte) : (s.setSt b).pc = s.pc := rfl
@[simp] theorem State.setSt_stack (s : State) (b : Byte) : (s.setSt b).stack = s.stack := rfl
@[simp] theorem State.setSt_sp (s : State) (b : Byte) : (s.setSt b).sp = s.sp := rfl
@[simp] theorem State.setSt_dt (s : State) (b : Byte) : (s.setSt b).dt = s.dt := rfl
@[simp] theorem State.setSt_st (s : State) (b : Byte) : (s.setSt b).st = b := rfl
@[simp] theorem State.setSt_disp (s : State) (b : Byte) : (s.setSt b).disp = s.disp := rfl
@[simp] theorem State.setSt_dirty (s : State) (b : Byte) : (s.setSt b).dirty = s.dirty := rfl
@[simp] theorem State.setSt_keys (s : State) (b : Byte) : (s.setSt b).keys = s.keys := rfl
@[simp] theorem State.setSt_fault (s : State) (b : Byte) : (s.setSt b).fault = s.fault := rfl
@[simp] theorem State.setSt_cfg (s : State) (b : Byte) : (s.setSt b).cfg = s.cfg := rfl
@[simp] theorem State.setSt_draws (s : State) (b : Byte) : (s.setSt b).draws = s.draws := rfl
@[simp] theorem State.setSt_diags (s : State) (b : Byte) : (s.setSt b).diags = s.diags := rfl
@[simp] theorem State.setSt_getV (s : State) (b : Byte) (r : Reg) : (s.setSt b).getV r = s.getV r := rfl

-- drawNext

@[simp] theorem State.drawNext_mem (s : State) : s.drawNext.mem = s.mem := rfl
@[simp] theorem State.drawNext_v (s : State) : s.drawNext.v = s.v := rfl
@[simp] theorem State.drawNext_i (s : State) : s.drawNext.i = s.i := rfl
@[simp] theorem State.drawNext_pc (s : State) : s.drawNext.pc = s.pc := rfl
@[simp] theorem State.drawNext_stack (s : State) : s.drawNext.stack = s.stack := rfl
@[simp] theorem State.drawNext_sp (s : State) : s.drawNext.sp = s.sp := rfl
@[simp] theorem State.drawNext_dt (s : State) : s.drawNext.dt = s.dt := rfl
@[simp] theorem State.drawNext_st (s : State) : s.drawNext.st = s.st := rfl
@[simp] theorem State.drawNext_disp (s : State) : s.drawNext.disp = s.disp := rfl
@[simp] theorem State.drawNext_dirty (s : State) : s.drawNext.dirty = s.dirty := rfl
@[simp] theorem State.drawNext_keys (s : State) : s.drawNext.keys = s.keys := rfl
@[simp] theorem State.drawNext_fault (s : State) : s.drawNext.fault = s.fault := rfl
@[simp] theorem State.drawNext_cfg (s : State) : s.drawNext.cfg = s.cfg := rfl
@[simp] theorem State.drawNext_draws (s : State) : s.drawNext.draws = s.draws + 1 := rfl
@[simp] theorem State.drawNext_diags (s : State) : s.drawNext.diags = s.diags := rfl
@[simp] theorem State.drawNext_getV (s : State) (r : Reg) : s.drawNext.getV r = s.getV r := rfl

-- setPc

@[simp] theorem State.setPc_mem (s : State) (w : Word) : (s.setPc w).mem = s.mem := rfl
@[simp] theorem State.setPc_v (s : State) (w : Word) : (s.setPc w).v = s.v := rfl
@[simp] theorem State.setPc_i (s : State) (w : Word) : (s.setPc w).i = s.i := rfl
@[simp] theorem State.setPc_pc (s : State) (w : Word) : (s.setPc w).pc = w := rfl
@[simp] theorem State.setPc_stack (s : State) (w : Word) : (s.setPc w).stack = s.stack := rfl
@[simp] theorem State.setPc_sp (s : State) (w : Word) : (s.setPc w).sp = s.sp := rfl
@[simp] theorem State.setPc_dt (s : State) (w : Word) : (s.setPc w).dt = s.dt := rfl
@[simp] theorem State.setPc_st (s : State) (w : Word) : (s.setPc w).st = s.st := rfl
@[simp] theorem State.setPc_disp (s : State) (w : Word) : (s.setPc w).disp = s.disp := rfl
@[simp] theorem State.setPc_dirty (s : State) (w : Word) : (s.setPc w).dirty = s.dirty := rfl
@[simp] theorem State.setPc_keys (s : State) (w : Word) : (s.setPc w).keys = s.keys := rfl
@[simp] theorem State.setPc_fault (s : State) (w : Word) : (s.setPc w).fault = s.fault := rfl
@[simp] theorem State.setPc_cfg (s : State) (w : Word) : (s.setPc w).cfg = s.cfg := rfl
@[simp] theorem State.setPc_draws (s : State) (w : Word) : (s.setPc w).draws = s.draws := rfl
@[simp] theorem State.setPc_diags (s : State) (w : Word) : (s.setPc w).diags = s.diags := rfl
@[simp] theorem State.setPc_getV (s : State) (w : Word) (r : Reg) : (s.setPc w).getV r = s.getV r := rfl

-- advance

@[simp] theorem State.advance_mem (s : State) : s.advance.mem = s.mem := rfl
@[simp] theorem State.advance_v (s : State) : s.advance.v = s.v := rfl
@[simp] theorem State.advance_i (s : State) : s.advance.i = s.i := rfl
@[simp] theorem State.advance_pc (s : State) : s.advance.pc = s.pc + 2#16 := rfl
@[simp] theorem State.advance_stack (s : State) : s.advance.stack = s.stack := rfl
@[simp] theorem State.advance_sp (s : State) : s.advance.sp = s.sp := rfl
@[simp] theorem State.advance_dt (s : State) : s.advance.dt = s.dt := rfl
@[simp] theorem State.advance_st (s : State) : s.advance.st = s.st := rfl
@[simp] theorem State.advance_disp (s : State) : s.advance.disp = s.disp := rfl
@[simp] theorem State.advance_dirty (s : State) : s.advance.dirty = s.dirty := rfl
@[simp] theorem State.advance_keys (s : State) : s.advance.keys = s.keys := rfl
@[simp] theorem State.advance_fault (s : State) : s.advance.fault = s.fault := rfl
@[simp] theorem State.advance_cfg (s : State) : s.advance.cfg = s.cfg := rfl
@[simp] theorem State.advance_draws (s : State) : s.advance.draws = s.draws := rfl
@[simp] theorem State.advance_diags (s : State) : s.advance.diags = s.diags := rfl
@[simp] theorem State.advance_getV (s : State) (r : Reg) : s.advance.getV r = s.getV r := rfl

-- skipIf

@[simp] theorem State.skipIf_mem (s : State) (c : Bool) : (s.skipIf c).mem = s.mem := rfl
@[simp] theorem State.skipIf_v (s : State) (c : Bool) : (s.skipIf c).v = s.v := rfl
@[simp] theorem State.skipIf_i (s : State) (c : Bool) : (s.skipIf c).i = s.i := rfl
@[simp] theorem State.skipIf_pc (s : State) (c : Bool) : (s.skipIf c).pc = s.pc + if c then 4#16 else 2#16 := rfl
@[simp] theorem State.skipIf_stack (s : State) (c : Bool) : (s.skipIf c).stack = s.stack := rfl
@[simp] theorem State.skipIf_sp (s : State) (c : Bool) : (s.skipIf c).sp = s.sp := rfl
@[simp] theorem State.skipIf_dt (s : State) (c : Bool) : (s.skipIf c).dt = s.dt := rfl
@[simp] theorem State.skipIf_st (s : State) (c : Bool) : (s.skipIf c).st = s.st := rfl
@[simp] theorem State.skipIf_disp (s : State) (c : Bool) : (s.skipIf c).disp = s.disp := rfl
@[simp] theorem State.skipIf_dirty (s : State) (c : Bool) : (s.skipIf c).dirty = s.dirty := rfl
@[simp] theorem State.skipIf_keys (s : State) (c : Bool) : (s.skipIf c).keys = s.keys := rfl
@[simp] theorem State.skipIf_fault (s : State) (c : Bool) : (s.skipIf c).fault = s.fault := rfl
@[simp] theorem State.skipIf_cfg (s : State) (c : Bool) : (s.skipIf c).cfg = s.cfg := rfl
@[simp] theorem State.skipIf_draws (s : State) (c : Bool) : (s.skipIf c).draws = s.draws := rfl
@[simp] theorem State.skipIf_diags (s : State) (c : Bool) : (s.skipIf c).diags = s.diags := rfl
@[simp] theorem State.skipIf_getV (s : State) (c : Bool) (r : Reg) : (s.skipIf c).getV r = s.getV r := rfl

-- push

@[simp] theorem State.push_mem (s : State) (w : Word) (h : s.sp.val < stackDepth) : (s.push w h).mem = s.mem := rfl
@[simp] theorem State.push_v (s : State) (w : Word) (h : s.sp.val < stackDepth) : (s.push w h).v = s.v := rfl
@[simp] theorem State.push_i (s : State) (w : Word) (h : s.sp.val < stackDepth) : (s.push w h).i = s.i := rfl
@[simp] theorem State.push_pc (s : State) (w : Word) (h : s.sp.val < stackDepth) : (s.push w h).pc = s.pc := rfl
@[simp] theorem State.push_stack (s : State) (w : Word) (h : s.sp.val < stackDepth) : (s.push w h).stack = s.stack.set s.sp.val w h := rfl
@[simp] theorem State.push_sp (s : State) (w : Word) (h : s.sp.val < stackDepth) : (s.push w h).sp = ⟨s.sp.val + 1, Nat.succ_lt_succ h⟩ := rfl
@[simp] theorem State.push_dt (s : State) (w : Word) (h : s.sp.val < stackDepth) : (s.push w h).dt = s.dt := rfl
@[simp] theorem State.push_st (s : State) (w : Word) (h : s.sp.val < stackDepth) : (s.push w h).st = s.st := rfl
@[simp] theorem State.push_disp (s : State) (w : Word) (h : s.sp.val < stackDepth) : (s.push w h).disp = s.disp := rfl
@[simp] theorem State.push_dirty (s : State) (w : Word) (h : s.sp.val < stackDepth) : (s.push w h).dirty = s.dirty := rfl
@[simp] theorem State.push_keys (s : State) (w : Word) (h : s.sp.val < stackDepth) : (s.push w h).keys = s.keys := rfl
@[simp] theorem State.push_fault (s : State) (w : Word) (h : s.sp.val < stackDepth) : (s.push w h).fault = s.fault := rfl
@[simp] theorem State.push_cfg (s : State) (w : Word) (h : s.sp.val < stackDepth) : (s.push w h).cfg = s.cfg := rfl
@[simp] theorem State.push_draws (s : State) (w : Word) (h : s.sp.val < stackDepth) : (s.push w h).draws = s.draws := rfl
@[simp] theorem State.push_diags (s : State) (w : Word) (h : s.sp.val < stackDepth) : (s.push w h).diags = s.diags := rfl
@[simp] theorem State.push_getV (s : State) (w : Word) (h : s.sp.val < stackDepth) (r : Reg) : (s.push w h).getV r = s.getV r := rfl

-- drop

@[simp] theorem State.drop_mem (s : State) : s.drop.mem = s.mem := rfl
@[simp] theorem State.drop_v (s : State) : s.drop.v = s.v := rfl
@[simp] theorem State.drop_i (s : State) : s.drop.i = s.i := rfl
@[simp] theorem State.drop_pc (s : State) : s.drop.pc = s.pc := rfl
@[simp] theorem State.drop_stack (s : State) : s.drop.stack = s.stack := rfl
@[simp] theorem State.drop_sp (s : State) : s.drop.sp = ⟨s.sp.val - 1, Nat.lt_of_le_of_lt (Nat.sub_le _ _) s.sp.isLt⟩ := rfl
@[simp] theorem State.drop_dt (s : State) : s.drop.dt = s.dt := rfl
@[simp] theorem State.drop_st (s : State) : s.drop.st = s.st := rfl
@[simp] theorem State.drop_disp (s : State) : s.drop.disp = s.disp := rfl
@[simp] theorem State.drop_dirty (s : State) : s.drop.dirty = s.dirty := rfl
@[simp] theorem State.drop_keys (s : State) : s.drop.keys = s.keys := rfl
@[simp] theorem State.drop_fault (s : State) : s.drop.fault = s.fault := rfl
@[simp] theorem State.drop_cfg (s : State) : s.drop.cfg = s.cfg := rfl
@[simp] theorem State.drop_draws (s : State) : s.drop.draws = s.draws := rfl
@[simp] theorem State.drop_diags (s : State) : s.drop.diags = s.diags := rfl
@[simp] theorem State.drop_getV (s : State) (r : Reg) : s.drop.getV r = s.getV r := rfl

-- emitDiag

@[simp] theorem State.emitDiag_mem (s : State) (w : Word) : (s.emitDiag w).mem = s.mem := rfl
@[simp] theorem State.emitDiag_v (s : State) (w : Word) : (s.emitDiag w).v = s.v := rfl
@[simp] theorem State.emitDiag_i (s : State) (w : Word) : (s.emitDiag w).i = s.i := rfl
@[simp] theorem State.emitDiag_pc (s : State) (w : Word) : (s.emitDiag w).pc = s.pc := rfl
@[simp] theorem State.emitDiag_stack (s : State) (w : Word) : (s.emitDiag w).stack = s.stack := rfl
@[simp] theorem State.emitDiag_sp (s : State) (w : Word) : (s.emitDiag w).sp = s.sp := rfl
@[simp] theorem State.emitDiag_dt (s : State) (w : Word) : (s.emitDiag w).dt = s.dt := rfl
@[simp] theorem State.emitDiag_st (s : State) (w : Word) : (s.emitDiag w).st = s.st := rfl
@[simp] theorem State.emitDiag_disp (s : State) (w : Word) : (s.emitDiag w).disp = s.disp := rfl
@[simp] theorem State.emitDiag_dirty (s : State) (w : Word) : (s.emitDiag w).dirty = s.dirty := rfl
@[simp] theorem State.emitDiag_keys (s : State) (w : Word) : (s.emitDiag w).keys = s.keys := rfl
@[simp] theorem State.emitDiag_fault (s : State) (w : Word) : (s.emitDiag w).fault = s.fault := rfl
@[simp] theorem State.emitDiag_cfg (s : State) (w : Word) : (s.emitDiag w).cfg = s.cfg := rfl
@[simp] theorem State.emitDiag_draws (s : State) (w : Word) : (s.emitDiag w).draws = s.draws := rfl
@[simp] theorem State.emitDiag_diags (s : State) (w : Word) : (s.emitDiag w).diags = { pc := s.pc, word := w } :: s.diags := rfl
@[simp] theorem State.emitDiag_getV (s : State) (w : Word) (r : Reg) : (s.emitDiag w).getV r = s.getV r := rfl

-- setFlag

@[simp] theorem State.setFlag_mem (s : State) (c : Bool) : (s.setFlag c).mem = s.mem := rfl
@[simp] theorem State.setFlag_i (s : State) (c : Bool) : (s.setFlag c).i = s.i := rfl
@[simp] theorem State.setFlag_pc (s : State) (c : Bool) : (s.setFlag c).pc = s.pc := rfl
@[simp] theorem State.setFlag_stack (s : State) (c : Bool) : (s.setFlag c).stack = s.stack := rfl
@[simp] theorem State.setFlag_sp (s : State) (c : Bool) : (s.setFlag c).sp = s.sp := rfl
@[simp] theorem State.setFlag_dt (s : State) (c : Bool) : (s.setFlag c).dt = s.dt := rfl
@[simp] theorem State.setFlag_st (s : State) (c : Bool) : (s.setFlag c).st = s.st := rfl
@[simp] theorem State.setFlag_disp (s : State) (c : Bool) : (s.setFlag c).disp = s.disp := rfl
@[simp] theorem State.setFlag_dirty (s : State) (c : Bool) : (s.setFlag c).dirty = s.dirty := rfl
@[simp] theorem State.setFlag_keys (s : State) (c : Bool) : (s.setFlag c).keys = s.keys := rfl
@[simp] theorem State.setFlag_fault (s : State) (c : Bool) : (s.setFlag c).fault = s.fault := rfl
@[simp] theorem State.setFlag_cfg (s : State) (c : Bool) : (s.setFlag c).cfg = s.cfg := rfl
@[simp] theorem State.setFlag_draws (s : State) (c : Bool) : (s.setFlag c).draws = s.draws := rfl
@[simp] theorem State.setFlag_diags (s : State) (c : Bool) : (s.setFlag c).diags = s.diags := rfl

-- setDisplay

@[simp] theorem State.setDisplay_mem (s : State) (d : Display) : (s.setDisplay d).mem = s.mem := rfl
@[simp] theorem State.setDisplay_v (s : State) (d : Display) : (s.setDisplay d).v = s.v := rfl
@[simp] theorem State.setDisplay_i (s : State) (d : Display) : (s.setDisplay d).i = s.i := rfl
@[simp] theorem State.setDisplay_pc (s : State) (d : Display) : (s.setDisplay d).pc = s.pc := rfl
@[simp] theorem State.setDisplay_stack (s : State) (d : Display) : (s.setDisplay d).stack = s.stack := rfl
@[simp] theorem State.setDisplay_sp (s : State) (d : Display) : (s.setDisplay d).sp = s.sp := rfl
@[simp] theorem State.setDisplay_dt (s : State) (d : Display) : (s.setDisplay d).dt = s.dt := rfl
@[simp] theorem State.setDisplay_st (s : State) (d : Display) : (s.setDisplay d).st = s.st := rfl
@[simp] theorem State.setDisplay_disp (s : State) (d : Display) : (s.setDisplay d).disp = d := rfl
@[simp] theorem State.setDisplay_dirty (s : State) (d : Display) : (s.setDisplay d).dirty = true := rfl
@[simp] theorem State.setDisplay_keys (s : State) (d : Display) : (s.setDisplay d).keys = s.keys := rfl
@[simp] theorem State.setDisplay_fault (s : State) (d : Display) : (s.setDisplay d).fault = s.fault := rfl
@[simp] theorem State.setDisplay_cfg (s : State) (d : Display) : (s.setDisplay d).cfg = s.cfg := rfl
@[simp] theorem State.setDisplay_draws (s : State) (d : Display) : (s.setDisplay d).draws = s.draws := rfl
@[simp] theorem State.setDisplay_diags (s : State) (d : Display) : (s.setDisplay d).diags = s.diags := rfl
@[simp] theorem State.setDisplay_getV (s : State) (d : Display) (r : Reg) : (s.setDisplay d).getV r = s.getV r := rfl

-- tick

@[simp] theorem State.tick_mem (s : State) : s.tick.mem = s.mem := rfl
@[simp] theorem State.tick_v (s : State) : s.tick.v = s.v := rfl
@[simp] theorem State.tick_i (s : State) : s.tick.i = s.i := rfl
@[simp] theorem State.tick_pc (s : State) : s.tick.pc = s.pc := rfl
@[simp] theorem State.tick_stack (s : State) : s.tick.stack = s.stack := rfl
@[simp] theorem State.tick_sp (s : State) : s.tick.sp = s.sp := rfl
@[simp] theorem State.tick_dt (s : State) : s.tick.dt = tickTimer s.dt := rfl
@[simp] theorem State.tick_st (s : State) : s.tick.st = tickTimer s.st := rfl
@[simp] theorem State.tick_disp (s : State) : s.tick.disp = s.disp := rfl
@[simp] theorem State.tick_dirty (s : State) : s.tick.dirty = s.dirty := rfl
@[simp] theorem State.tick_keys (s : State) : s.tick.keys = s.keys := rfl
@[simp] theorem State.tick_fault (s : State) : s.tick.fault = s.fault := rfl
@[simp] theorem State.tick_cfg (s : State) : s.tick.cfg = s.cfg := rfl
@[simp] theorem State.tick_draws (s : State) : s.tick.draws = s.draws := rfl
@[simp] theorem State.tick_diags (s : State) : s.tick.diags = s.diags := rfl
@[simp] theorem State.tick_getV (s : State) (r : Reg) : s.tick.getV r = s.getV r := rfl

-- keyWrite

@[simp] theorem State.keyWrite_mem (s : State) (k : Key) (c : Bool) : (s.keyWrite k c).mem = s.mem := rfl
@[simp] theorem State.keyWrite_v (s : State) (k : Key) (c : Bool) : (s.keyWrite k c).v = s.v := rfl
@[simp] theorem State.keyWrite_i (s : State) (k : Key) (c : Bool) : (s.keyWrite k c).i = s.i := rfl
@[simp] theorem State.keyWrite_pc (s : State) (k : Key) (c : Bool) : (s.keyWrite k c).pc = s.pc := rfl
@[simp] theorem State.keyWrite_stack (s : State) (k : Key) (c : Bool) : (s.keyWrite k c).stack = s.stack := rfl
@[simp] theorem State.keyWrite_sp (s : State) (k : Key) (c : Bool) : (s.keyWrite k c).sp = s.sp := rfl
@[simp] theorem State.keyWrite_dt (s : State) (k : Key) (c : Bool) : (s.keyWrite k c).dt = s.dt := rfl
@[simp] theorem State.keyWrite_st (s : State) (k : Key) (c : Bool) : (s.keyWrite k c).st = s.st := rfl
@[simp] theorem State.keyWrite_disp (s : State) (k : Key) (c : Bool) : (s.keyWrite k c).disp = s.disp := rfl
@[simp] theorem State.keyWrite_dirty (s : State) (k : Key) (c : Bool) : (s.keyWrite k c).dirty = s.dirty := rfl
@[simp] theorem State.keyWrite_keys (s : State) (k : Key) (c : Bool) : (s.keyWrite k c).keys = s.keys.set k c := rfl
@[simp] theorem State.keyWrite_fault (s : State) (k : Key) (c : Bool) : (s.keyWrite k c).fault = s.fault := rfl
@[simp] theorem State.keyWrite_cfg (s : State) (k : Key) (c : Bool) : (s.keyWrite k c).cfg = s.cfg := rfl
@[simp] theorem State.keyWrite_draws (s : State) (k : Key) (c : Bool) : (s.keyWrite k c).draws = s.draws := rfl
@[simp] theorem State.keyWrite_diags (s : State) (k : Key) (c : Bool) : (s.keyWrite k c).diags = s.diags := rfl
@[simp] theorem State.keyWrite_getV (s : State) (k : Key) (c : Bool) (r : Reg) : (s.keyWrite k c).getV r = s.getV r := rfl

-- dirtyClear

@[simp] theorem State.dirtyClear_mem (s : State) : s.dirtyClear.mem = s.mem := rfl
@[simp] theorem State.dirtyClear_v (s : State) : s.dirtyClear.v = s.v := rfl
@[simp] theorem State.dirtyClear_i (s : State) : s.dirtyClear.i = s.i := rfl
@[simp] theorem State.dirtyClear_pc (s : State) : s.dirtyClear.pc = s.pc := rfl
@[simp] theorem State.dirtyClear_stack (s : State) : s.dirtyClear.stack = s.stack := rfl
@[simp] theorem State.dirtyClear_sp (s : State) : s.dirtyClear.sp = s.sp := rfl
@[simp] theorem State.dirtyClear_dt (s : State) : s.dirtyClear.dt = s.dt := rfl
@[simp] theorem State.dirtyClear_st (s : State) : s.dirtyClear.st = s.st := rfl
@[simp] theorem State.dirtyClear_disp (s : State) : s.dirtyClear.disp = s.disp := rfl
@[simp] theorem State.dirtyClear_dirty (s : State) : s.dirtyClear.dirty = false := rfl
@[simp] theorem State.dirtyClear_keys (s : State) : s.dirtyClear.keys = s.keys := rfl
@[simp] theorem State.dirtyClear_fault (s : State) : s.dirtyClear.fault = s.fault := rfl
@[simp] theorem State.dirtyClear_cfg (s : State) : s.dirtyClear.cfg = s.cfg := rfl
@[simp] theorem State.dirtyClear_draws (s : State) : s.dirtyClear.draws = s.draws := rfl
@[simp] theorem State.dirtyClear_diags (s : State) : s.dirtyClear.diags = s.diags := rfl
@[simp] theorem State.dirtyClear_getV (s : State) (r : Reg) : s.dirtyClear.getV r = s.getV r := rfl

-- Registers: what a write leaves and what a read finds.

theorem State.getV_setV (s : State) (x r : Reg) (b : Byte) :
    (s.setV x b).getV r = if x = r then b else s.getV r := by
  unfold State.getV State.setV
  show (s.v.set x.val b)[r.val] = _
  rw [Vector.getElem_set]
  by_cases h : x = r
  · subst h; simp
  · rw [if_neg (fun e => h (Fin.ext e)), if_neg h]; rfl

@[simp] theorem State.getV_setV_self (s : State) (x : Reg) (b : Byte) : (s.setV x b).getV x = b := by
  rw [State.getV_setV, if_pos rfl]

theorem State.getV_setV_ne (s : State) {x r : Reg} (b : Byte) (h : x ≠ r) : (s.setV x b).getV r = s.getV r := by
  rw [State.getV_setV, if_neg h]

@[simp] theorem State.getV_setFlag_self (s : State) (c : Bool) : (s.setFlag c).getV flagReg = flagByte c :=
  State.getV_setV_self s flagReg (flagByte c)

theorem State.getV_setFlag_ne (s : State) {r : Reg} (c : Bool) (h : r ≠ flagReg) :
    (s.setFlag c).getV r = s.getV r :=
  State.getV_setV_ne s (flagByte c) (Ne.symm h)

/-- Two register files that read alike everywhere are equal. -/
theorem State.v_ext {s t : State} (h : ∀ r : Reg, t.getV r = s.getV r) : t.v = s.v := by
  apply Vector.ext
  intro k hk
  exact h ⟨k, hk⟩

-- The result-and-flag write.

@[simp] theorem State.setResultAndFlag_mem (s : State) (x : Reg) (b : Byte) (c : Bool) :
    (s.setResultAndFlag x b c).mem = s.mem := by
  unfold State.setResultAndFlag; cases s.cfg.vfOrder <;> rfl
@[simp] theorem State.setResultAndFlag_i (s : State) (x : Reg) (b : Byte) (c : Bool) :
    (s.setResultAndFlag x b c).i = s.i := by
  unfold State.setResultAndFlag; cases s.cfg.vfOrder <;> rfl
@[simp] theorem State.setResultAndFlag_pc (s : State) (x : Reg) (b : Byte) (c : Bool) :
    (s.setResultAndFlag x b c).pc = s.pc := by
  unfold State.setResultAndFlag; cases s.cfg.vfOrder <;> rfl
@[simp] theorem State.setResultAndFlag_stack (s : State) (x : Reg) (b : Byte) (c : Bool) :
    (s.setResultAndFlag x b c).stack = s.stack := by
  unfold State.setResultAndFlag; cases s.cfg.vfOrder <;> rfl
@[simp] theorem State.setResultAndFlag_sp (s : State) (x : Reg) (b : Byte) (c : Bool) :
    (s.setResultAndFlag x b c).sp = s.sp := by
  unfold State.setResultAndFlag; cases s.cfg.vfOrder <;> rfl
@[simp] theorem State.setResultAndFlag_dt (s : State) (x : Reg) (b : Byte) (c : Bool) :
    (s.setResultAndFlag x b c).dt = s.dt := by
  unfold State.setResultAndFlag; cases s.cfg.vfOrder <;> rfl
@[simp] theorem State.setResultAndFlag_st (s : State) (x : Reg) (b : Byte) (c : Bool) :
    (s.setResultAndFlag x b c).st = s.st := by
  unfold State.setResultAndFlag; cases s.cfg.vfOrder <;> rfl
@[simp] theorem State.setResultAndFlag_disp (s : State) (x : Reg) (b : Byte) (c : Bool) :
    (s.setResultAndFlag x b c).disp = s.disp := by
  unfold State.setResultAndFlag; cases s.cfg.vfOrder <;> rfl
@[simp] theorem State.setResultAndFlag_dirty (s : State) (x : Reg) (b : Byte) (c : Bool) :
    (s.setResultAndFlag x b c).dirty = s.dirty := by
  unfold State.setResultAndFlag; cases s.cfg.vfOrder <;> rfl
@[simp] theorem State.setResultAndFlag_keys (s : State) (x : Reg) (b : Byte) (c : Bool) :
    (s.setResultAndFlag x b c).keys = s.keys := by
  unfold State.setResultAndFlag; cases s.cfg.vfOrder <;> rfl
@[simp] theorem State.setResultAndFlag_fault (s : State) (x : Reg) (b : Byte) (c : Bool) :
    (s.setResultAndFlag x b c).fault = s.fault := by
  unfold State.setResultAndFlag; cases s.cfg.vfOrder <;> rfl
@[simp] theorem State.setResultAndFlag_cfg (s : State) (x : Reg) (b : Byte) (c : Bool) :
    (s.setResultAndFlag x b c).cfg = s.cfg := by
  unfold State.setResultAndFlag; cases s.cfg.vfOrder <;> rfl
@[simp] theorem State.setResultAndFlag_draws (s : State) (x : Reg) (b : Byte) (c : Bool) :
    (s.setResultAndFlag x b c).draws = s.draws := by
  unfold State.setResultAndFlag; cases s.cfg.vfOrder <;> rfl
@[simp] theorem State.setResultAndFlag_diags (s : State) (x : Reg) (b : Byte) (c : Bool) :
    (s.setResultAndFlag x b c).diags = s.diags := by
  unfold State.setResultAndFlag; cases s.cfg.vfOrder <;> rfl

theorem State.getV_setResultAndFlag (s : State) (x r : Reg) (b : Byte) (c : Bool) :
    (s.setResultAndFlag x b c).getV r =
      match s.cfg.vfOrder with
      | .flagThenResult => if x = r then b else if flagReg = r then flagByte c else s.getV r
      | .resultThenFlag => if flagReg = r then flagByte c else if x = r then b else s.getV r := by
  unfold State.setResultAndFlag State.setFlag
  cases s.cfg.vfOrder <;> simp only [State.getV_setV]

/-- A register that is neither the destination nor `VF` is not written. -/
theorem State.getV_setResultAndFlag_ne (s : State) {x r : Reg} (b : Byte) (c : Bool) (hx : x ≠ r)
    (hf : flagReg ≠ r) : (s.setResultAndFlag x b c).getV r = s.getV r := by
  rw [State.getV_setResultAndFlag]
  cases s.cfg.vfOrder <;> simp only [if_neg hx, if_neg hf]

-- Keys.

theorem State.keyLevel_keyWrite (s : State) (k j : Key) (c : Bool) :
    (s.keyWrite k c).keyLevel j = if k = j then c else s.keyLevel j := by
  unfold State.keyLevel State.keyWrite
  show (s.keys.set k.val c)[j.val] = _
  rw [Vector.getElem_set]
  by_cases h : k = j
  · subst h; simp
  · rw [if_neg (fun e => h (Fin.ext e)), if_neg h]; rfl

-- The stack.

/-- A push leaves every entry but the one at `sp`. -/
theorem State.push_entry (s : State) (w : Word) (h : s.sp.val < stackDepth) (k : Fin 16) :
    (s.push w h).stack[k] = if s.sp.val = k.val then w else s.stack[k] := by
  show (s.stack.set s.sp.val w h)[k.val] = _
  rw [Vector.getElem_set]; rfl

end Sys2Proof.Machine
end

