-- ==== Sys2Proof/Laws/Ops.lean ====
section
/-! SUPPORT. Laws of the shared operations: for each one, everything it can do, said once. -/

namespace Sys2Proof.Machine

theorem inMemory_iff (a : Nat) : inMemory a = true ↔ a ≤ 0xFFF := by
  rw [inMemory, decide_eq_true_iff]

/-- Raising a fault: the one next state there is. -/
theorem raiseFault_eq_next {code : Fault} {word : Option Word} {addr : Option Nat} {s t : State} :
    raiseFault code word addr s = .next t ↔
      t = { s with fault := some { code := code, pc := s.pc, word := word, addr := addr } } := by
  rw [raiseFault, Host.Outcome.next.injEq]
  exact eq_comm

/-- A fetch succeeds exactly at an even `pc` whose word lies in memory. -/
theorem State.fetchable_iff (s : State) : s.fetchable = true ↔ s.pc.toNat % 2 = 0 ∧ s.pc.toNat ≤ 0xFFE := by
  rw [State.fetchable, Bool.and_eq_true, decide_eq_true_iff, inMemory_iff]
  omega

/-- The three things a fetch can do. -/
theorem State.fetch_cases (s : State) :
    (s.pc.toNat % 2 = 1 ∧ s.fetch = .stop .misalignedFetch none) ∨
    (s.pc.toNat % 2 = 0 ∧ 0xFFF < s.pc.toNat + 1 ∧ s.fetch = .stop .fetchOutOfRange (some (s.pc.toNat + 1))) ∨
    (s.pc.toNat % 2 = 0 ∧ s.pc.toNat ≤ 0xFFE ∧ s.fetch = .word s.fetchWord) := by
  unfold State.fetch
  by_cases h : s.pc.toNat % 2 = 0
  · by_cases h' : inMemory (s.pc.toNat + 1) = true
    · have := (inMemory_iff _).1 h'
      exact .inr (.inr ⟨h, by omega, by rw [if_neg (not_not.2 h), if_pos h']⟩)
    · have : ¬ s.pc.toNat + 1 ≤ 0xFFF := fun e => h' ((inMemory_iff _).2 e)
      exact .inr (.inl ⟨h, by omega, by rw [if_neg (not_not.2 h), if_neg h']⟩)
  · exact .inl ⟨by omega, by rw [if_pos h]⟩

theorem State.fetch_of_fetchable {s : State} (h : s.fetchable = true) : s.fetch = .word s.fetchWord := by
  have := s.fetchable_iff.1 h
  rcases s.fetch_cases with ⟨h1, -⟩ | ⟨-, h1, -⟩ | ⟨-, -, h1⟩
  · omega
  · omega
  · exact h1

/-- A key index names a key exactly when it is at most 15. -/
theorem keyOf_cases (b : Byte) :
    (∃ k : Key, k.val = b.toNat ∧ keyOf b = some k) ∨ (0xF < b.toNat ∧ keyOf b = none) := by
  unfold keyOf
  by_cases h : b.toNat ≤ 0xF
  · exact .inl ⟨⟨b.toNat, Nat.lt_succ_of_le h⟩, rfl, by rw [dif_pos h]⟩
  · exact .inr ⟨by omega, by rw [dif_neg h]⟩

/-- The bounds test is the negation of the spec's inequality. -/
theorem spriteOutOfRange_iff (s : State) (h : Nat) :
    spriteOutOfRange s.cfg.spriteBound s.i.toNat h = true ↔ ¬ s.SpriteFits h := by
  unfold State.SpriteFits spriteOutOfRange
  cases s.cfg.spriteBound with
  | access =>
    simp only [Bool.and_eq_true, decide_eq_true_iff, Bool.not_eq_true', inMemory, addrMax, decide_eq_false_iff_not]
    omega
  | literal => simp only [Bool.not_eq_true', inMemory, addrMax, decide_eq_false_iff_not]

@[simp] theorem spriteBytes_length (m : Memory) (base h : Nat) : (spriteBytes m base h).length = h := by
  rw [spriteBytes, List.length_map, List.length_range]

@[simp] theorem spriteBytes_getElem (m : Memory) (base h r : Nat) (hr : r < (spriteBytes m base h).length) :
    (spriteBytes m base h)[r] = Memory.read m (base + r) := by
  simp only [spriteBytes, List.getElem_map, List.getElem_range]

/-- A timer counts down to 0 and stays there. -/
theorem tickTimer_toNat (t : Byte) : (tickTimer t).toNat = t.toNat - 1 := by
  have := t.isLt
  unfold tickTimer
  split
  · rw [BitVec.toNat_sub]
    show (2 ^ 8 - 1 + t.toNat) % 2 ^ 8 = _
    omega
  · omega

/-- A push makes the pushed word the top. -/
theorem State.top_push (s : State) (w : Word) (h : s.sp.val < stackDepth)
    (live : 0 < (s.push w h).sp.val) : (s.push w h).top live = w := by
  show (s.stack.set s.sp.val w h)[s.sp.val + 1 - 1] = w
  exact Vector.getElem_set_self h

end Sys2Proof.Machine
end

