-- ==== Sys2Proof/Laws/Draw.lean ====
section
/-! SUPPORT. Laws of the display: what one toggle, one plotted bit, one sprite row and a
whole draw do to every cell. -/

namespace Sys2Proof.Machine

/-- A toggle turns over its cell and no other. -/
theorem Display.cell_toggle (d : Display) (x cx : Fin 64) (y cy : Fin 32) :
    Display.cell (Display.toggle d x y) cx cy =
      if x = cx ∧ y = cy then !Display.cell d cx cy else Display.cell d cx cy := by
  unfold Display.cell Display.toggle
  show (Vector.set d x.val (Vector.set d[x.val] y.val (!d[x.val][y.val])))[cx.val][cy.val] = _
  rw [Vector.getElem_set]
  by_cases hx : x = cx
  · subst hx
    simp only [if_true, true_and]
    rw [Vector.getElem_set]
    by_cases hy : y = cy
    · subst hy; simp
    · rw [if_neg (fun e => hy (Fin.ext e)), if_neg hy]; rfl
  · simp only [if_neg (fun e => hx (Fin.ext e)), hx, false_and, if_false]; rfl

@[simp] theorem Display.cell_blank (x : Fin 64) (y : Fin 32) : Display.cell Display.blank x y = false := by
  unfold Display.cell Display.blank
  show (Vector.replicate 64 (Vector.replicate 32 false))[x.val][y.val] = false
  rw [Vector.getElem_replicate, Vector.getElem_replicate]

/-- Two buffers with the same cells are equal. -/
theorem Display.ext_cell {d e : Display} (h : ∀ x y, Display.cell d x y = Display.cell e x y) : d = e := by
  apply Vector.ext
  intro a ha
  apply Vector.ext
  intro b hb
  exact h ⟨a, ha⟩ ⟨b, hb⟩

theorem Canvas.plot_cell (cv : Canvas) (x cx : Fin 64) (y cy : Fin 32) :
    Display.cell (cv.plot x y).disp cx cy =
      if x = cx ∧ y = cy then !Display.cell cv.disp cx cy else Display.cell cv.disp cx cy :=
  Display.cell_toggle cv.disp x cx y cy

@[simp] theorem Canvas.plot_hit (cv : Canvas) (x : Fin 64) (y : Fin 32) :
    (cv.plot x y).hit = (cv.hit || Display.cell cv.disp x y) := rfl

/-- One sprite column: its cell is turned over where its bit is set, and only then. -/
theorem drawBit_cell (x0 : Byte) (y : Fin 32) (b : Byte) (cv : Canvas) (c : Nat) (cx : Fin 64) (cy : Fin 32) :
    Display.cell (drawBit x0 y b cv c).disp cx cy =
      if spriteBit b c = true ∧ columnOf x0 c = cx ∧ y = cy then !Display.cell cv.disp cx cy
      else Display.cell cv.disp cx cy := by
  unfold drawBit
  by_cases h : spriteBit b c = true
  · simp only [h, if_true, true_and]; exact Canvas.plot_cell cv (columnOf x0 c) cx y cy
  · rw [if_neg h, if_neg (fun e => h e.1)]

/-- One sprite column: a collision is recorded where its bit is set and its cell was on. -/
theorem drawBit_hit (x0 : Byte) (y : Fin 32) (b : Byte) (cv : Canvas) (c : Nat) :
    (drawBit x0 y b cv c).hit = (cv.hit || (spriteBit b c && Display.cell cv.disp (columnOf x0 c) y)) := by
  unfold drawBit
  by_cases h : spriteBit b c = true
  · simp only [h, if_true, Bool.true_and]; rfl
  · rw [if_neg h, Bool.eq_false_of_not_eq_true h, Bool.false_and, Bool.or_false]

/-- The cells a set bit among the first `n` columns of a sprite byte lands on, in display row `y`. -/
def rowCovers (x0 : Byte) (y : Fin 32) (b : Byte) (n : Nat) (cx : Fin 64) (cy : Fin 32) : Prop :=
  ∃ c, c < n ∧ spriteBit b c = true ∧ columnOf x0 c = cx ∧ y = cy

/-- The first `n` columns of a sprite byte turn over exactly the cells they cover, and record a collision exactly when one of them was
on. -/
theorem drawRow_spec (x0 : Byte) (y : Fin 32) (b : Byte) (cv : Canvas) (n : Nat) (hn : n ≤ 8) :
    (∀ cx cy, (rowCovers x0 y b n cx cy → Display.cell ((List.range n).foldl (drawBit x0 y b) cv).disp cx cy = !Display.cell cv.disp cx cy) ∧
      (¬ rowCovers x0 y b n cx cy → Display.cell ((List.range n).foldl (drawBit x0 y b) cv).disp cx cy = Display.cell cv.disp cx cy)) ∧
    (((List.range n).foldl (drawBit x0 y b) cv).hit = true ↔ cv.hit = true ∨ ∃ cx cy, rowCovers x0 y b n cx cy ∧ Display.cell cv.disp cx cy = true) := by
  induction n with
  | zero =>
    refine ⟨fun cx cy => ⟨fun ⟨c, hc, _⟩ => by omega, fun _ => rfl⟩, ?_⟩
    simp [rowCovers]
  | succ n ih =>
    obtain ⟨ih1, ih2⟩ := ih (by omega)
    rw [List.range_succ, List.foldl_append, List.foldl_cons, List.foldl_nil]
    have distinct : ∀ c, c < n → columnOf x0 c ≠ columnOf x0 n := by
      intro c hc e
      have a := congrArg Fin.val e
      simp only [columnOf] at a; omega
    have fresh : ∀ cy, spriteBit b n = true → ¬ rowCovers x0 y b n (columnOf x0 n) cy := by
      rintro cy - ⟨c, hc, -, h, -⟩; exact distinct c hc h
    refine ⟨fun cx cy => ?_, ?_⟩
    · rw [drawBit_cell]
      by_cases h : spriteBit b n = true ∧ columnOf x0 n = cx ∧ y = cy
      · rw [if_pos h]
        have hn' : ¬ rowCovers x0 y b n cx cy := by rw [← h.2.1]; exact fresh cy h.1
        exact ⟨fun _ => by rw [(ih1 cx cy).2 hn'], fun hh => absurd ⟨n, by omega, h⟩ hh⟩
      · rw [if_neg h]
        have e : rowCovers x0 y b (n+1) cx cy ↔ rowCovers x0 y b n cx cy := by
          constructor
          · rintro ⟨c, hc, h'⟩
            refine ⟨c, ?_, h'⟩
            by_contra hh
            have : c = n := by omega
            subst this; exact h h'
          · rintro ⟨c, hc, h'⟩; exact ⟨c, by omega, h'⟩
        rw [e]; exact ih1 cx cy
    · rw [drawBit_hit, Bool.or_eq_true, ih2, Bool.and_eq_true]
      constructor
      · rintro ((h | ⟨cx, cy, ⟨c, hc, h⟩, h'⟩) | ⟨h, h'⟩)
        · exact .inl h
        · exact .inr ⟨cx, cy, ⟨c, by omega, h⟩, h'⟩
        · refine .inr ⟨columnOf x0 n, y, ⟨n, by omega, h, rfl, rfl⟩, ?_⟩
          rw [← h', (ih1 _ _).2 (fresh _ h)]
      · rintro (h | ⟨cx, cy, ⟨c, hc, h, h1, h2⟩, h'⟩)
        · exact .inl (.inl h)
        · by_cases hcn : c = n
          · subst hcn
            refine .inr ⟨h, ?_⟩
            subst h2; subst h1; rw [(ih1 _ _).2 (fresh _ h)]; exact h'
          · exact .inl (.inr ⟨cx, cy, ⟨c, by omega, h, h1, h2⟩, h'⟩)

/-- The cells the sprite rows `bs`, the first of them sprite row `r0`, land a set bit on. -/
def spriteCovers (x0 y0 : Byte) (r0 : Nat) (bs : List Byte) (cx : Fin 64) (cy : Fin 32) : Prop :=
  ∃ r c, ∃ h : r < bs.length, c < 8 ∧ spriteBit bs[r] c = true ∧ columnOf x0 c = cx ∧ rowOf y0 (r0 + r) = cy

/-- The same for sprite rows: at most 32 of them meet no row twice. -/
theorem drawRows_spec (x0 y0 : Byte) (bs : List Byte) : ∀ (r0 : Nat) (cv : Canvas), r0 + bs.length ≤ 32 →
    (∀ cx cy, (spriteCovers x0 y0 r0 bs cx cy → Display.cell (drawRows x0 y0 r0 bs cv).disp cx cy = !Display.cell cv.disp cx cy) ∧
      (¬ spriteCovers x0 y0 r0 bs cx cy → Display.cell (drawRows x0 y0 r0 bs cv).disp cx cy = Display.cell cv.disp cx cy)) ∧
    ((drawRows x0 y0 r0 bs cv).hit = true ↔ cv.hit = true ∨ ∃ cx cy, spriteCovers x0 y0 r0 bs cx cy ∧ Display.cell cv.disp cx cy = true) := by
  induction bs with
  | nil =>
    intro r0 cv _
    refine ⟨fun cx cy => ⟨fun ⟨r, c, hr, _⟩ => by simp at hr, fun _ => rfl⟩, ?_⟩
    simp [spriteCovers, drawRows]
  | cons b bs ih =>
    intro r0 cv hl
    rw [List.length_cons] at hl
    obtain ⟨i1, i2⟩ := ih (r0 + 1) (drawRow x0 (rowOf y0 r0) b cv) (by omega)
    obtain ⟨j1, j2⟩ := drawRow_spec x0 (rowOf y0 r0) b cv 8 (by omega)
    rw [drawRows]
    have split : ∀ cx cy, spriteCovers x0 y0 r0 (b :: bs) cx cy ↔ rowCovers x0 (rowOf y0 r0) b 8 cx cy ∨ spriteCovers x0 y0 (r0 + 1) bs cx cy := by
      intro cx cy
      constructor
      · rintro ⟨r, c, hr, hc, h1, h2, h3⟩
        cases r with
        | zero => exact .inl ⟨c, hc, h1, h2, h3⟩
        | succ r => exact .inr ⟨r, c, by simpa using hr, hc, by simpa using h1, h2, by rw [← h3]; congr 1; omega⟩
      · rintro (⟨c, hc, h1, h2, h3⟩ | ⟨r, c, hr, hc, h1, h2, h3⟩)
        · exact ⟨0, c, by simp, hc, h1, h2, h3⟩
        · exact ⟨r + 1, c, by simpa using hr, hc, by simpa using h1, h2, by rw [← h3]; congr 1; omega⟩
    have disj : ∀ cx cy, rowCovers x0 (rowOf y0 r0) b 8 cx cy → ¬ spriteCovers x0 y0 (r0 + 1) bs cx cy := by
      rintro cx cy ⟨c, hc, h1, h2, h3⟩ ⟨r, c', hr, hc', h1', h2', h3'⟩
      have a := congrArg Fin.val (h3.trans h3'.symm)
      simp only [rowOf] at a; omega
    refine ⟨fun cx cy => ?_, ?_⟩
    · rw [split]
      refine ⟨?_, ?_⟩
      · rintro (h | h)
        · rw [(i1 cx cy).2 (disj cx cy h)]; exact (j1 cx cy).1 h
        · have : ¬ rowCovers x0 (rowOf y0 r0) b 8 cx cy := fun h' => disj cx cy h' h
          rw [(i1 cx cy).1 h]; congr 1; exact (j1 cx cy).2 this
      · intro h
        simp only [not_or] at h
        rw [(i1 cx cy).2 h.2]; exact (j1 cx cy).2 h.1
    · rw [i2]
      have e := j2
      constructor
      · rintro (h | ⟨cx, cy, h, h'⟩)
        · rcases j2.1 h with h | ⟨cx, cy, h, h'⟩
          · exact .inl h
          · exact .inr ⟨cx, cy, (split cx cy).2 (.inl h), h'⟩
        · refine .inr ⟨cx, cy, (split cx cy).2 (.inr h), ?_⟩
          rw [← h']; exact ((j1 cx cy).2 (fun h'' => disj cx cy h'' h)).symm
      · rintro (h | ⟨cx, cy, h, h'⟩)
        · exact .inl (j2.2 (.inl h))
        · rcases (split cx cy).1 h with h | h
          · exact .inl (j2.2 (.inr ⟨cx, cy, h, h'⟩))
          · refine .inr ⟨cx, cy, h, ?_⟩
            rw [← h']; exact ((j1 cx cy).2 (fun h'' => disj cx cy h'' h))

/-- What `Covered` says in the spec's arithmetic is what the sprite bytes cover. -/
theorem covered_iff (s : State) (x y : Reg) (n : Nibble) (cx : Fin 64) (cy : Fin 32) : s.Covered x y n cx cy ↔ spriteCovers (s.getV x) (s.getV y) 0 (spriteBytes s.mem s.i.toNat n.toNat) cx cy := by
  constructor
  · rintro ⟨r, c, hr, hc, h1, h2, h3⟩
    refine ⟨r, c, by simpa using hr, hc, by rw [spriteBytes_getElem]; exact h1, Fin.ext h2.symm, Fin.ext ?_⟩
    simp only [rowOf]; rw [h3, Nat.zero_add]
  · rintro ⟨r, c, hr, hc, h1, h2, h3⟩
    rw [spriteBytes_getElem] at h1
    refine ⟨r, c, by simpa using hr, hc, h1, (congrArg Fin.val h2).symm, ?_⟩
    have := (congrArg Fin.val h3).symm
    simpa [rowOf] using this

/-- Everything a draw does to the buffer and the collision flag. -/
theorem drawn_spec (s : State) (x y : Reg) (n : Nibble) : 
    (∀ cx cy,
      (s.Covered x y n cx cy → Display.cell (s.drawn x y n).disp cx cy = !Display.cell s.disp cx cy) ∧
      (¬ s.Covered x y n cx cy → Display.cell (s.drawn x y n).disp cx cy = Display.cell s.disp cx cy)) ∧
    ((s.drawn x y n).hit = true ↔ ∃ cx cy, s.Covered x y n cx cy ∧ Display.cell s.disp cx cy = true) := by
  have hn := n.isLt
  have := drawRows_spec (s.getV x) (s.getV y) (spriteBytes s.mem s.i.toNat n.toNat) 0 ⟨s.disp, false⟩ (by simp; omega)
  simp only [covered_iff]
  simpa [State.drawn, drawSprite] using this

end Sys2Proof.Machine
end

