-- ==== Sys2Proof/Laws/Step.lean ====
section
/-! SUPPORT. What a step can do, said once. -/

namespace Sys2Proof.Machine

/-- A step from a faulted block. -/
theorem step_of_faulted {s : State} {r : FaultRecord} (h : s.fault = some r) : step s = .fault r.code := by
  unfold step
  rw [h]

/-- A step from a block that is not faulted: the fetch decides. -/
theorem step_of_clear {s : State} (h : s.fault = none) :
    step s =
      match s.fetch with
      | .stop code addr => raiseFault code none addr s
      | .word w => exec (decodeWord w) s := by
  cases s
  cases h
  rfl

/-- A step whose fetch succeeds executes the instruction its word decodes to. -/
theorem step_of_fetchable {s : State} (h : s.fault = none) (hf : s.fetchable = true) :
    step s = exec (decodeWord s.fetchWord) s := by
  rw [step_of_clear h, State.fetch_of_fetchable hf]

/-- Everything a step that answers a next state has done: raised one of the two fetch faults, or executed the
instruction at `pc`. -/
theorem step_eq_next {s t : State} (h : step s = .next t) :
    s.fault = none ∧
      ((s.pc.toNat % 2 = 1 ∧
          t = { s with fault := some { code := .misalignedFetch, pc := s.pc, word := none, addr := none } }) ∨
       (s.pc.toNat % 2 = 0 ∧ 0xFFF < s.pc.toNat + 1 ∧
          t = { s with fault := some { code := .fetchOutOfRange, pc := s.pc, word := none, addr := some (s.pc.toNat + 1) } }) ∨
       (s.pc.toNat % 2 = 0 ∧ s.pc.toNat ≤ 0xFFE ∧ exec (decodeWord s.fetchWord) s = .next t)) := by
  cases hf : s.fault with
  | some r => rw [step_of_faulted hf] at h; cases h
  | none =>
    refine ⟨rfl, ?_⟩
    rw [step_of_clear hf] at h
    rcases s.fetch_cases with ⟨h1, h2⟩ | ⟨h1, h2, h3⟩ | ⟨h1, h2, h3⟩
    · rw [h2] at h; exact .inl ⟨h1, raiseFault_eq_next.1 h⟩
    · rw [h3] at h; exact .inr (.inl ⟨h1, h2, raiseFault_eq_next.1 h⟩)
    · rw [h3] at h; exact .inr (.inr ⟨h1, h2, h⟩)

end Sys2Proof.Machine
end

