-- ==== Sys2Proof/Laws/Exec.lean ====
section
/-! SUPPORT. The branches of the five instructions that can fault, and the one inversion of `exec` that later proofs
start from. -/

namespace Sys2Proof.Machine

-- Each branch as one equation.

theorem exec_ret_live {s : State} (live : 0 < s.sp.val) :
    exec .ret s = .next (s.drop.setPc (s.top live + 2#16)) :=
  dif_pos live

theorem exec_ret_empty {s : State} (h : s.sp.val = 0) :
    exec .ret s = raiseFault .stackUnderflow (some (encode .ret)) none s :=
  dif_neg (by omega : ¬ 0 < s.sp.val)

theorem exec_call_room (nnn : Addr12) {s : State} (room : s.sp.val < stackDepth) :
    exec (.call nnn) s = .next ((s.push s.pc room).setPc (zext16 nnn)) :=
  dif_pos room

theorem exec_call_full (nnn : Addr12) {s : State} (h : s.sp.val = 16) :
    exec (.call nnn) s = raiseFault .stackOverflow (some (encode (.call nnn))) none s :=
  dif_neg (by rw [h]; decide : ¬ s.sp.val < stackDepth)

theorem exec_drw_fits (x y : Reg) {n : Nibble} {s : State} (h : s.SpriteFits n.toNat) :
    exec (.drw x y n) s =
      .next ((s.setFlag (s.drawn x y n).hit).setDisplay (s.drawn x y n).disp).advance :=
  if_neg fun e => (spriteOutOfRange_iff s _).1 e h

theorem exec_drw_outside (x y : Reg) {n : Nibble} {s : State} (h : ¬ s.SpriteFits n.toNat) :
    exec (.drw x y n) s =
      raiseFault .spriteOutOfRange (some (encode (.drw x y n))) (some (s.i.toNat + n.toNat - 1)) s :=
  if_pos ((spriteOutOfRange_iff s _).2 h)

theorem exec_skp_key (x : Reg) {s : State} {k : Key} (h : keyOf (s.getV x) = some k) :
    exec (.skp x) s = .next (s.skipIf (s.keyLevel k)) := by
  show execSkp x s = _
  rw [execSkp, h]

theorem exec_skp_noKey (x : Reg) {s : State} (h : keyOf (s.getV x) = none) :
    exec (.skp x) s = raiseFault .keyIndexOutOfRange (some (encode (.skp x))) (some (s.getV x).toNat) s := by
  show execSkp x s = _
  rw [execSkp, h]

theorem exec_sknp_key (x : Reg) {s : State} {k : Key} (h : keyOf (s.getV x) = some k) :
    exec (.sknp x) s = .next (s.skipIf (!s.keyLevel k)) := by
  show execSknp x s = _
  rw [execSknp, h]

theorem exec_sknp_noKey (x : Reg) {s : State} (h : keyOf (s.getV x) = none) :
    exec (.sknp x) s = raiseFault .keyIndexOutOfRange (some (encode (.sknp x))) (some (s.getV x).toNat) s := by
  show execSknp x s = _
  rw [execSknp, h]

-- What an execution can do.

/-- The one fault of an instruction, with its condition and its record (60_exceptions.md R200, R203). -/
def FaultsWith (i : Instr) (s : State) (r : FaultRecord) : Prop :=
  (i = .ret ∧ s.sp.val = 0 ∧ r = ⟨.stackUnderflow, s.pc, some (encode i), none⟩) ∨
  (∃ nnn, i = .call nnn ∧ s.sp.val = 16 ∧ r = ⟨.stackOverflow, s.pc, some (encode i), none⟩) ∨
  (∃ x y n, i = .drw x y n ∧ ¬ s.SpriteFits n.toNat ∧
    r = ⟨.spriteOutOfRange, s.pc, some (encode i), some (s.i.toNat + n.toNat - 1)⟩) ∨
  (∃ x, (i = .skp x ∨ i = .sknp x) ∧ 0xF < (s.getV x).toNat ∧
    r = ⟨.keyIndexOutOfRange, s.pc, some (encode i), some (s.getV x).toNat⟩)

/-- No fault condition of the instruction holds. -/
def Completes (i : Instr) (s : State) : Prop :=
  (i = .ret → 0 < s.sp.val) ∧ (∀ nnn, i = .call nnn → s.sp.val < 16) ∧
    (∀ x y n, i = .drw x y n → s.SpriteFits n.toNat) ∧
    (∀ x, (i = .skp x ∨ i = .sknp x) → (s.getV x).toNat ≤ 0xF)

/-- An execution that answers a next state has either raised the instruction's fault, and done nothing else, or
completed, and left the fault status alone. -/
theorem exec_eq_next {i : Instr} {s t : State} (h : exec i s = .next t) :
    (∃ r, FaultsWith i s r ∧ t = { s with fault := some r }) ∨ (Completes i s ∧ t.fault = s.fault) := by
  cases i
  case ret =>
    by_cases h0 : 0 < s.sp.val
    · rw [exec_ret_live h0, Host.Outcome.next.injEq] at h
      subst h
      exact .inr ⟨⟨fun _ => h0, by simp, by simp, by simp⟩, by simp⟩
    · have h0 : s.sp.val = 0 := by omega
      rw [exec_ret_empty h0, raiseFault_eq_next] at h
      exact .inl ⟨_, .inl ⟨rfl, h0, rfl⟩, h⟩
  case call nnn =>
    have := s.sp.isLt
    by_cases h0 : s.sp.val < stackDepth
    · rw [exec_call_room nnn h0, Host.Outcome.next.injEq] at h
      subst h
      exact .inr ⟨⟨by simp, fun _ _ => h0, by simp, by simp⟩, by simp⟩
    · have h0 : s.sp.val = 16 := by have : ¬ s.sp.val < 16 := h0; omega
      rw [exec_call_full nnn h0, raiseFault_eq_next] at h
      exact .inl ⟨_, .inr (.inl ⟨_, rfl, h0, rfl⟩), h⟩
  case drw x y n =>
    by_cases hx : s.SpriteFits n.toNat
    · rw [exec_drw_fits x y hx, Host.Outcome.next.injEq] at h
      subst h
      exact .inr ⟨⟨by simp, by simp, fun x' y' n' e => by cases e; exact hx, by simp⟩, by simp⟩
    · rw [exec_drw_outside x y hx, raiseFault_eq_next] at h
      exact .inl ⟨_, .inr (.inr (.inl ⟨_, _, _, rfl, hx, rfl⟩)), h⟩
  case skp x =>
    rcases keyOf_cases (s.getV x) with ⟨k, hk, hk'⟩ | ⟨hk, hk'⟩
    · rw [exec_skp_key x hk', Host.Outcome.next.injEq] at h
      subst h
      have := k.isLt
      exact .inr ⟨⟨by simp, by simp, by simp, fun y hy => by simp at hy; subst hy; omega⟩, by simp⟩
    · rw [exec_skp_noKey x hk', raiseFault_eq_next] at h
      exact .inl ⟨_, .inr (.inr (.inr ⟨x, .inl rfl, hk, rfl⟩)), h⟩
  case sknp x =>
    rcases keyOf_cases (s.getV x) with ⟨k, hk, hk'⟩ | ⟨hk, hk'⟩
    · rw [exec_sknp_key x hk', Host.Outcome.next.injEq] at h
      subst h
      have := k.isLt
      exact .inr ⟨⟨by simp, by simp, by simp, fun y hy => by simp at hy; subst hy; omega⟩, by simp⟩
    · rw [exec_sknp_noKey x hk', raiseFault_eq_next] at h
      exact .inl ⟨_, .inr (.inr (.inr ⟨x, .inr rfl, hk, rfl⟩)), h⟩
  all_goals
    refine .inr ⟨⟨by simp, by simp, by simp, by simp⟩, ?_⟩
    rw [← Host.Outcome.next.inj h]
    simp [rndWith]

-- Frames of the shared endings.

theorem pc_add_two (p : Word) : (p + 2#16).toNat = (p.toNat + 2) % 2 ^ 16 := by
  rw [BitVec.toNat_add]; rfl

/-- Writing one register and advancing. -/
theorem registerFrame_setV (s : State) (x : Reg) (b : Byte) : RegisterFrame s (s.setV x b).advance [x] := by
  refine ⟨?_, rfl, fun _ => rfl, ⟨rfl, rfl⟩, ⟨rfl, rfl⟩, ⟨rfl, rfl⟩, rfl, rfl, rfl⟩
  intro r hr
  have : x ≠ r := by simpa [eq_comm] using hr
  rw [State.advance_getV, State.getV_setV_ne _ _ this]

/-- Writing a result and a flag and advancing. -/
theorem registerFrame_setResultAndFlag (s : State) (x : Reg) (b : Byte) (f : Bool) :
    RegisterFrame s (s.setResultAndFlag x b f).advance [x, 15] := by
  refine ⟨?_, by simp, fun _ => by simp, ⟨by simp, by simp⟩, ⟨by simp, by simp⟩, ⟨by simp, by simp⟩, by simp, by simp,
    by simp⟩
  intro r hr
  have h : r ≠ x ∧ r ≠ 15 := by simpa using hr
  rw [State.advance_getV, State.getV_setResultAndFlag_ne _ _ _ (Ne.symm h.1) (Ne.symm h.2)]

/-- Setting `pc` alone. -/
theorem registerFrame_setPc (s : State) (target : Word) : RegisterFrame s (s.setPc target) [] :=
  ⟨fun _ _ => rfl, rfl, fun _ => rfl, ⟨rfl, rfl⟩, ⟨rfl, rfl⟩, ⟨rfl, rfl⟩, rfl, rfl, rfl⟩

end Sys2Proof.Machine
end

