-- ==== Sys2Proof/Laws/PerInstr.lean ====
section
/-! SUPPORT. A law of every instruction, per constructor: the high nibble of its word is its family's
(30_encoding.md R73, R74), so that the decoder's first choice is the right one. -/

namespace Sys2Proof.Laws.OpNibble

/-- The high nibble of an instruction's row in the decode table; an unrecognized word has its own. -/
def family : Instr → Nibble
  | .cls => 0x0#4
  | .ret => 0x0#4
  | .jp _ => 0x1#4
  | .call _ => 0x2#4
  | .se _ _ => 0x3#4
  | .sne _ _ => 0x4#4
  | .ldByte _ _ => 0x6#4
  | .addByte _ _ => 0x7#4
  | .ldReg _ _ => 0x8#4
  | .orReg _ _ => 0x8#4
  | .andReg _ _ => 0x8#4
  | .xorReg _ _ => 0x8#4
  | .addReg _ _ => 0x8#4
  | .subReg _ _ => 0x8#4
  | .ldI _ => 0xA#4
  | .rnd _ _ => 0xC#4
  | .drw _ _ _ => 0xD#4
  | .skp _ => 0xE#4
  | .sknp _ => 0xE#4
  | .ldVxDt _ => 0xF#4
  | .ldDtVx _ => 0xF#4
  | .ldStVx _ => 0xF#4
  | .unrecognized w => opField w

/-- The law of one instruction. -/
def Statement (i : Instr) : Prop := i.wellFormed = true → opField (encode i) = family i

theorem cls : Statement .cls := fun _ => by decide

theorem ret : Statement .ret := fun _ => by decide

theorem jp (nnn : Addr12) : Statement (.jp nnn) := fun _ => opField_formatA _ _

theorem call (nnn : Addr12) : Statement (.call nnn) := fun _ => opField_formatA _ _

theorem se (x : Reg) (nn : Byte) : Statement (.se x nn) := fun _ => opField_formatB _ _ _

theorem sne (x : Reg) (nn : Byte) : Statement (.sne x nn) := fun _ => opField_formatB _ _ _

theorem ldByte (x : Reg) (nn : Byte) : Statement (.ldByte x nn) := fun _ => opField_formatB _ _ _

theorem addByte (x : Reg) (nn : Byte) : Statement (.addByte x nn) := fun _ => opField_formatB _ _ _

theorem ldReg (x y : Reg) : Statement (.ldReg x y) := fun _ => opField_formatC _ _ _ _

theorem orReg (x y : Reg) : Statement (.orReg x y) := fun _ => opField_formatC _ _ _ _

theorem andReg (x y : Reg) : Statement (.andReg x y) := fun _ => opField_formatC _ _ _ _

theorem xorReg (x y : Reg) : Statement (.xorReg x y) := fun _ => opField_formatC _ _ _ _

theorem addReg (x y : Reg) : Statement (.addReg x y) := fun _ => opField_formatC _ _ _ _

theorem subReg (x y : Reg) : Statement (.subReg x y) := fun _ => opField_formatC _ _ _ _

theorem ldI (nnn : Addr12) : Statement (.ldI nnn) := fun _ => opField_formatA _ _

theorem rnd (x : Reg) (nn : Byte) : Statement (.rnd x nn) := fun _ => opField_formatB _ _ _

theorem drw (x y : Reg) (n : Nibble) : Statement (.drw x y n) := fun _ => opField_formatC _ _ _ _

theorem skp (x : Reg) : Statement (.skp x) := fun _ => opField_formatB _ _ _

theorem sknp (x : Reg) : Statement (.sknp x) := fun _ => opField_formatB _ _ _

theorem ldVxDt (x : Reg) : Statement (.ldVxDt x) := fun _ => opField_formatB _ _ _

theorem ldDtVx (x : Reg) : Statement (.ldDtVx x) := fun _ => opField_formatB _ _ _

theorem ldStVx (x : Reg) : Statement (.ldStVx x) := fun _ => opField_formatB _ _ _

theorem unrecognized (w : Word) : Statement (.unrecognized w) := fun _ => rfl

end Sys2Proof.Laws.OpNibble
end

