-- ==== Sys2Proof/Tests/Slice0.lean ====
section
/-! SUPPORT. Tests: ill-formed terms refused, words decoded, single steps with results from 95_test_vectors.md and the rules'
own examples, and for each obligation with hypotheses a state that meets them. -/

namespace Sys2Proof.Tests

open Sys2Proof.Machine

-- Well-formedness: the one check there is (WellFormed.lean), refused at a word of each instruction row.

theorem test_illFormed_fixed :
    (Instr.unrecognized 0x00E0#16).wellFormed = false ∧ (Instr.unrecognized 0x00EE#16).wellFormed = false := by decide

theorem test_illFormed_families :
    ([0x1000#16, 0x2FFF#16, 0x3000#16, 0x4FFF#16, 0x6000#16, 0x7FFF#16, 0xA000#16, 0xC000#16, 0xDFFF#16].all
      fun w => (Instr.unrecognized w).wellFormed == false) = true := by decide

theorem test_illFormed_selected :
    ([0x8000#16, 0x8FF1#16, 0x8002#16, 0x8003#16, 0x8004#16, 0x8FF5#16, 0xE09E#16, 0xEFA1#16, 0xF007#16, 0xFF15#16, 0xF018#16].all
      fun w => (Instr.unrecognized w).wellFormed == false) = true := by decide

theorem test_wellFormed_edges :
    ([0x0000#16, 0x0FFF#16, 0x00E1#16, 0x5000#16, 0x9FFF#16, 0xB000#16, 0x8006#16, 0x8FFF#16, 0xE09F#16, 0xF019#16].all
      fun w => (Instr.unrecognized w).wellFormed) = true := by decide

-- Decoding, one word per constructor, each written from the patterns of 30_encoding.md R74.

theorem test_decode_00E0 : decodeWord 0b0000000011100000#16 = .cls := by decide
theorem test_decode_00EE : decodeWord 0b0000000011101110#16 = .ret := by decide
theorem test_decode_1NNN : decodeWord 0b0001101010111100#16 = .jp 0xABC#12 := by decide
theorem test_decode_2NNN : decodeWord 0b0010000100100011#16 = .call 0x123#12 := by decide
theorem test_decode_3XNN : decodeWord 0b0011101001011100#16 = .se 10 0x5C#8 := by decide
theorem test_decode_4XNN : decodeWord 0b0100000111111110#16 = .sne 1 0xFE#8 := by decide
theorem test_decode_6XNN : decodeWord 0b0110111101000010#16 = .ldByte 15 0x42#8 := by decide
theorem test_decode_7XNN : decodeWord 0b0111001100000010#16 = .addByte 3 0x02#8 := by decide
theorem test_decode_8XY0 : decodeWord 0b1000001001010000#16 = .ldReg 2 5 := by decide
theorem test_decode_8XY1 : decodeWord 0b1000110000010001#16 = .orReg 12 1 := by decide
theorem test_decode_8XY2 : decodeWord 0b1000000011010010#16 = .andReg 0 13 := by decide
theorem test_decode_8XY3 : decodeWord 0b1000011101000011#16 = .xorReg 7 4 := by decide
theorem test_decode_8XY4 : decodeWord 0b1000111100010100#16 = .addReg 15 1 := by decide
theorem test_decode_8XY5 : decodeWord 0b1000000111110101#16 = .subReg 1 15 := by decide
theorem test_decode_ANNN : decodeWord 0b1010001011110000#16 = .ldI 0x2F0#12 := by decide
theorem test_decode_CXNN : decodeWord 0b1100001100001111#16 = .rnd 3 0x0F#8 := by decide
theorem test_decode_DXYN : decodeWord 0b1101000100101111#16 = .drw 1 2 15#4 := by decide
theorem test_decode_EX9E : decodeWord 0b1110001010011110#16 = .skp 2 := by decide
theorem test_decode_EXA1 : decodeWord 0b1110001010100001#16 = .sknp 2 := by decide
theorem test_decode_FX07 : decodeWord 0b1111101100000111#16 = .ldVxDt 11 := by decide
theorem test_decode_FX15 : decodeWord 0b1111101000010101#16 = .ldDtVx 10 := by decide
theorem test_decode_FX18 : decodeWord 0b1111010000011000#16 = .ldStVx 4 := by decide

/-- 95_test_vectors.md §2.6: the listed unrecognized words. -/
theorem test_decode_unrecognized :
    ([0x0000#16, 0x0123#16, 0x00E1#16, 0x00FF#16, 0x5120#16, 0x9AB0#16, 0xB200#16, 0x8AB7#16, 0x8ABE#16, 0xE0A0#16, 0xF00A#16,
      0xF01E#16, 0xF029#16, 0xF033#16, 0xF055#16, 0xF065#16].all fun w => decodeWord w == .unrecognized w) = true := by
  decide

/-- A byte list decodes big-endian and leaves the rest; one byte is not an instruction (R70). -/
theorem test_decode_bytes :
    decodeBytes [0x12#8, 0x34#8, 0x56#8] = .instr (.jp 0x234#12) [0x56#8] ∧
      decodeBytes [0x12#8] = .rejected .truncated := by decide

theorem test_decode_tableWord : decodeTableWord 16 0xD01F = some (.drw 0 1 15#4) := by decide

-- One step on a small state.

/-- The reset state changed by `f`, with the word `w` where the next step fetches. -/
def ready (w : Nat) (f : State → State) : State := (f State.reset).withFetchWord 16 w

/-- Whether a step answers a next state that `p` accepts. -/
def answers (s : State) (p : State → Bool) : Bool :=
  match step s with
  | .next t => p t
  | .fault _ => false
  | .refused _ => false

/-- Whether the fault record is this one. -/
def hasFault (t : State) (code : Fault) (pc : Word) (word : Option Word) (addr : Option Nat) : Bool :=
  t.fault == some { code := code, pc := pc, word := word, addr := addr }

/-- V-D1. -/
theorem test_cls :
    answers (ready 0x00E0 fun s =>
        { s.setV 15 3#8 with disp := Display.toggle s.disp 10 5, dirty := false })
      (fun t => !Display.cell t.disp 10 5 && t.dirty && t.getV 15 == 3#8) = true := by decide

/-- The example of R103: the return goes to the word after the call. -/
theorem test_ret :
    answers (ready 0x00EE fun s => { s with pc := 0x300#16, sp := 1, stack := s.stack.set 0 0x204#16 })
      (fun t => t.pc == 0x206#16 && t.sp == 0) = true := by decide

/-- R103: a return with an empty stack. -/
theorem test_ret_empty :
    answers (ready 0x00EE fun s => s) (fun t => hasFault t .stackUnderflow 0x200#16 (some 0x00EE#16) none) = true := by
  decide

/-- The example of R104. -/
theorem test_jp : answers (ready 0x1234 fun s => s) (fun t => t.pc == 0x234#16) = true := by decide

/-- V-C7. -/
theorem test_call :
    answers (ready 0x2300 fun s => { s with pc := 0x250#16, sp := 15 })
      (fun t => t.pc == 0x300#16 && t.sp == 16 && t.stack[15] == 0x250#16) = true := by decide

/-- V-C8. -/
theorem test_call_full :
    answers (ready 0x2300 fun s => { s with pc := 0x250#16, sp := 16 })
      (fun t => hasFault t .stackOverflow 0x250#16 (some 0x2300#16) none && t.sp == 16) = true := by decide

/-- V-C11. -/
theorem test_se :
    answers (ready 0x3F01 fun s => { s.setV 15 1#8 with pc := 0x300#16 }) (fun t => t.pc == 0x304#16) = true := by decide

/-- V-C10. -/
theorem test_se_not :
    answers (ready 0x3000 fun s => { s.setV 0 1#8 with pc := 0x300#16 }) (fun t => t.pc == 0x302#16) = true := by decide

/-- V-C13. -/
theorem test_sne :
    answers (ready 0x40FF fun s => { s.setV 0 0xFE#8 with pc := 0x300#16 }) (fun t => t.pc == 0x304#16) = true := by
  decide

/-- V-C12. -/
theorem test_sne_not :
    answers (ready 0x40FF fun s => { s.setV 0 0xFF#8 with pc := 0x300#16 }) (fun t => t.pc == 0x302#16) = true := by
  decide

/-- V-A1. -/
theorem test_ldByte :
    answers (ready 0x6F42 fun s => s) (fun t => t.getV 15 == 0x42#8 && t.pc == 0x202#16) = true := by decide

/-- V-A2. -/
theorem test_addByte :
    answers (ready 0x7180 fun s => (s.setV 1 0x80#8).setV 15 0x55#8)
      (fun t => t.getV 1 == 0#8 && t.getV 15 == 0x55#8) = true := by decide

/-- V-A4. -/
theorem test_ldReg :
    answers (ready 0x8F30 fun s => s.setV 3 9#8) (fun t => t.getV 15 == 9#8) = true := by decide

/-- The example of R126. -/
theorem test_orReg :
    answers (ready 0x8011 fun s => (s.setV 0 0x0F#8).setV 1 0xF0#8) (fun t => t.getV 0 == 0xFF#8) = true := by decide

/-- V-A6. -/
theorem test_andReg :
    answers (ready 0x8012 fun s => ((s.setV 0 0xF0#8).setV 1 0x3C#8).setV 15 7#8)
      (fun t => t.getV 0 == 0x30#8 && t.getV 15 == 7#8) = true := by decide

/-- The example of R128. -/
theorem test_xorReg :
    answers (ready 0x8013 fun s => (s.setV 0 0xFF#8).setV 1 0x0F#8) (fun t => t.getV 0 == 0xF0#8) = true := by decide

/-- V-A13: the old `VF` is the operand. -/
theorem test_addReg :
    answers (ready 0x80F4 fun s => (s.setV 0 0x10#8).setV 15 1#8)
      (fun t => t.getV 0 == 0x11#8 && t.getV 15 == 0#8) = true := by decide

/-- V-A14, under both orders. -/
theorem test_addReg_intoVF :
    answers (ready 0x8F14 fun s => (s.setV 15 0xF0#8).setV 1 0x20#8) (fun t => t.getV 15 == 0x10#8) = true ∧
      answers (ready 0x8F14 fun s =>
          { (s.setV 15 0xF0#8).setV 1 0x20#8 with cfg := { s.cfg with vfOrder := .resultThenFlag } })
        (fun t => t.getV 15 == 1#8) = true := by decide

/-- V-A19. -/
theorem test_subReg :
    answers (ready 0x80F5 fun s => s.setV 15 1#8) (fun t => t.getV 0 == 0xFF#8 && t.getV 15 == 0#8) = true := by decide

/-- V-A15: equality is no borrow. -/
theorem test_subReg_equal :
    answers (ready 0x8015 fun s => (s.setV 0 5#8).setV 1 5#8)
      (fun t => t.getV 0 == 0#8 && t.getV 15 == 1#8) = true := by decide

/-- V-A22. -/
theorem test_ldI : answers (ready 0xAFFF fun s => s) (fun t => t.i == 0xFFF#16) = true := by decide

/-- The example of R133, with the draw supplied. -/
theorem test_rnd : (rndWith 0xB7#8 3 0x0F#8 State.reset).getV 3 = 0x07#8 := by decide

/-- V-D7. -/
theorem test_drw_collision :
    answers (ready 0xD011 fun s =>
        { (s.setV 0 10#8).setV 1 5#8 with
          disp := Display.toggle s.disp 10 5, i := 0x300#16, mem := s.mem.write 0x300 0xC0#8 })
      (fun t => !Display.cell t.disp 10 5 && Display.cell t.disp 11 5 && t.getV 15 == 1#8) = true := by decide

/-- V-D8: the coordinate is the old `VF`. -/
theorem test_drw_oldVF :
    answers (ready 0xD0F1 fun s => { s.setV 15 3#8 with i := 0x300#16, mem := s.mem.write 0x300 0x80#8 })
      (fun t => Display.cell t.disp 0 3 && t.getV 15 == 0#8 && t.dirty) = true := by decide

/-- V-K3. -/
theorem test_skp :
    answers (ready 0xE09E fun s => { s with pc := 0x300#16, keys := s.keys.set 0 true }) (fun t => t.pc == 0x304#16) =
      true := by decide

/-- V-K1. -/
theorem test_skp_noKey :
    answers (ready 0xE09E fun s => s.setV 0 0x10#8)
      (fun t => hasFault t .keyIndexOutOfRange 0x200#16 (some 0xE09E#16) (some 0x10)) = true := by decide

/-- V-K4. -/
theorem test_sknp :
    answers (ready 0xEFA1 fun s => { s.setV 15 0x0F#8 with pc := 0x300#16 }) (fun t => t.pc == 0x304#16) = true := by
  decide

/-- The example of R173's value. -/
theorem test_ldVxDt : answers (ready 0xFB07 fun s => { s with dt := 2#8 }) (fun t => t.getV 11 == 2#8) = true := by decide

/-- The example of R174. -/
theorem test_ldDtVx :
    answers (ready 0xF415 fun s => s.setV 4 0x3C#8) (fun t => t.dt == 0x3C#8 && t.st == 0#8) = true := by decide

/-- V-T3. -/
theorem test_ldStVx :
    answers (ready 0xF118 fun s => s.setV 1 3#8) (fun t => t.st == 3#8 && t.dt == 0#8) = true := by decide

/-- The example of R190, with its diagnostic (R191). -/
theorem test_unrecognized :
    answers (ready 0x5120 fun s => s)
      (fun t => t.pc == 0x202#16 && t.diags == [{ pc := 0x200#16, word := 0x5120#16 }]) = true := by decide

/-- 60_exceptions.md R204's own example: `pc = 0xFFF` reports the odd `pc`. -/
theorem test_fetch_odd :
    answers { State.reset with pc := 0xFFF#16 } (fun t => hasFault t .misalignedFetch 0xFFF#16 none none) = true := by
  decide

/-- V-C14's second step. -/
theorem test_fetch_outside :
    answers { State.reset with pc := 0x1002#16 } (fun t => hasFault t .fetchOutOfRange 0x1002#16 none (some 0x1003)) =
      true := by decide

/-- V-T4 and V-T5. -/
theorem test_tick :
    ({ State.reset with st := 3#8 }.tick).st = 2#8 ∧ ({ State.reset with st := 3#8 }.tick).dt = 0#8 ∧
      ({ State.reset with dt := 1#8 }.tick).dt = 0#8 := by decide

/-- V-L5. -/
theorem test_load :
    (State.reset.load [0x12#8, 0x34#8, 0x56#8]).map State.mem =
      some [(0x200, 0x12#8), (0x201, 0x34#8), (0x202, 0x56#8)] := by decide


-- Witnesses: a state and operands that meet the hypotheses of each obligation, at the edges of their ranges.

/-- A running block at the edges of the invariant: full stack, highest `I`, highest fetchable `pc`, a loaded byte. -/
def edge : State :=
  { State.reset with
    pc := 0xFFE#16, i := 0xFFF#16, sp := 16, stack := Vector.replicate 16 0xFFE#16, mem := [(0xFFF, 0xE0#8)] }

/-- A block faulted by a return with an empty stack. -/
def faulted : State :=
  { State.reset with
    fault := some { code := .stackUnderflow, pc := 0x200#16, word := some 0x00EE#16, addr := none } }

/-- Whether a step raises a fault of this code. -/
def raises (s : State) (code : Fault) : Bool := answers s fun t => t.fault.map FaultRecord.code == some code

theorem wit_wellFormed :
    (Instr.drw 15 15 15#4).wellFormed = true ∧ (Instr.unrecognized 0xFFFF#16).wellFormed = true ∧
      (Instr.unrecognized 0x0000#16).wellFormed = true := by decide

/-- `OtherChip8WordsAreUnrecognized`: a word of each kind, and a state whose fetch is one. -/
theorem wit_otherChip8 :
    ((0x0FFF#16 : Word) &&& 0xF000#16 = 0x0000#16 ∧ (0x5FF0#16 : Word) &&& 0xF00F#16 = 0x5000#16 ∧
      (0x9010#16 : Word) &&& 0xF00F#16 = 0x9000#16 ∧ (0xBFFF#16 : Word) &&& 0xF000#16 = 0xB000#16 ∧
      (0x8FF6#16 : Word) &&& 0xF00F#16 = 0x8006#16 ∧ (0x8017#16 : Word) &&& 0xF00F#16 = 0x8007#16 ∧
      (0x800E#16 : Word) &&& 0xF00F#16 = 0x800E#16 ∧ (0xFF0A#16 : Word) &&& 0xF0FF#16 = 0xF00A#16 ∧
      (0xF01E#16 : Word) &&& 0xF0FF#16 = 0xF01E#16 ∧ (0xF129#16 : Word) &&& 0xF0FF#16 = 0xF029#16 ∧
      (0xF233#16 : Word) &&& 0xF0FF#16 = 0xF033#16 ∧ (0xF355#16 : Word) &&& 0xF0FF#16 = 0xF055#16 ∧
      (0xFF65#16 : Word) &&& 0xF0FF#16 = 0xF065#16) ∧
    (ready 0xFF65 fun s => s).fault = none ∧ (ready 0xFF65 fun s => s).fetchable = true ∧
      (ready 0xFF65 fun s => s).fetchWord = 0xFF65#16 := by decide

/-- `StepRunsTheDecodedInstruction` and `FetchReadsTwoBytesBigEndian`, at the last word of memory. -/
theorem wit_fetch :
    edge.fault = none ∧ edge.pc.toNat % 2 = 0 ∧ edge.pc.toNat + 1 ≤ 0xFFF ∧
      decodeBytes [edge.mem.read edge.pc.toNat, edge.mem.read (edge.pc.toNat + 1)] = .instr .cls [] ∧
      (0x00E0#16 : Word).toNat =
        (edge.mem.read edge.pc.toNat).toNat * 256 + (edge.mem.read (edge.pc.toNat + 1)).toNat := by decide

/-- `FetchChecksItsAddress` and `FaultPriority`: an odd `pc` in and out of memory, an even one outside. -/
theorem wit_fetchChecks :
    State.reset.fault = none ∧ (0x201#16 : Word).toNat % 2 ≠ 0 ∧ (0xFFF#16 : Word).toNat % 2 = 1 ∧
      (0x1001#16 : Word).toNat % 2 = 1 ∧ (0x1000#16 : Word).toNat % 2 = 0 ∧ 0xFFF < (0x1000#16 : Word).toNat + 1 ∧
      0xFFE < (0x1000#16 : Word).toNat ∧ faulted.fault.isSome = true := by decide

/-- `StepRunsThePlacedWord`: memory with a cell in it. -/
theorem wit_placedWord : edge.mem.wf = true ∧ State.reset.mem.wf = true := by decide

/-- `StepOutputIsOkDiagOrFault`, `ExecutionNeverStops`: a step that ends without a fault, with and without a diagnostic. -/
theorem wit_stepNext :
    answers edge (fun t => t.fault == none) = true ∧
      answers (ready 0x5120 fun s => s) (fun t => t.fault == none) = true ∧
      decodeWord (ready 0x5120 fun s => s).fetchWord = .unrecognized 0x5120#16 := by decide

/-- `FaultsArePrecise`, `FaultRecordTellsItsCause`, `ReexecutionRaisesTheSameFault`: a step for each of the six codes. -/
theorem wit_faults :
    raises (ready 0x2FFF fun s => { s with sp := 16 }) .stackOverflow = true ∧
      raises (ready 0x00EE fun s => s) .stackUnderflow = true ∧
      raises { State.reset with pc := 0x1000#16 } .fetchOutOfRange = true ∧
      raises { State.reset with pc := 0x201#16 } .misalignedFetch = true ∧
      raises (ready 0xD012 fun s => { s with i := 0xFFF#16 }) .spriteOutOfRange = true ∧
      raises (ready 0xE09E fun s => s.setV 0 0x10#8) .keyIndexOutOfRange = true ∧
      raises (ready 0xEFA1 fun s => s.setV 15 0xFF#8) .keyIndexOutOfRange = true := by decide

/-- `StepFaultsExactlyWhenUnsafe`: a safe step of each instruction with a duty, at its bound. -/
theorem wit_safe :
    answers (ready 0x00EE fun s => { s with sp := 1 }) (fun t => t.fault == none) = true ∧
      answers (ready 0x2000 fun s => { s with sp := 15 }) (fun t => t.fault == none) = true ∧
      answers (ready 0xD01F fun s => { s with i := 0xFF1#16 }) (fun t => t.fault == none) = true ∧
      answers (ready 0xE09E fun s => s.setV 0 0x0F#8) (fun t => t.fault == none) = true := by decide

/-- `FaultedBlockIsStuckUntilReset`: a faulted block, and a load of it that succeeds. -/
theorem wit_faulted :
    faulted.fault = some { code := .stackUnderflow, pc := 0x200#16, word := some 0x00EE#16, addr := none } ∧
      (faulted.load [1#8]).isSome = true :=
  ⟨rfl, by decide⟩

/-- `StepKeepsInvariant` and `HostOperationsKeepInvariant`: a running block at the edges of the invariant, and a faulted one. -/
theorem wit_inv : edge.Inv ∧ faulted.Inv := by
  refine ⟨⟨by decide, by decide, by decide, ?_, fun r h => by cases h⟩,
    ⟨by decide, by decide, by decide, fun k hk => absurd hk (Nat.not_lt_zero _), ?_⟩⟩
  · show ∀ k : Fin 16, k.val < edge.sp.val → edge.stack[k].toNat ≤ 0xFFE ∧ edge.stack[k].toNat % 2 = 0
    decide
  · intro r h
    cases h
    exact ⟨rfl, by decide, by decide⟩

theorem wit_inv_steps : answers edge (fun _ => true) = true ∧ (edge.load [1#8]).isSome = true := by decide

/-- What a session of a machine with the spec's parameters plays. -/
def played (ops : List Op) : Option Session := (Session.created defaultConfig).play ops

/-- `ReachableStatesStayInBounds`: a reachable state other than reset. -/
theorem wit_reachable : ∃ s : State, s.Reachable ∧ s.pc = 0x204#16 :=
  ⟨_, ⟨defaultConfig, [.load [0x12#8, 0x02#8], .step, .tick, .step], _, rfl, rfl⟩, by decide⟩

/-- `MemoryHoldsTheLoadedImage`: a session that resets, loads, steps and ticks, and an image of the greatest length. -/
theorem wit_image :
    Op.reset ∉ [Op.step, .tick, .keyWrite 0 true, .dirtyClear] ∧
      (played ([.tick, .reset] ++ .load [0x00#8, 0xE0#8] :: [.step, .tick, .keyWrite 0 true, .dirtyClear])).isSome = true ∧
      (List.replicate 3584 0xFF#8).length ≤ 3584 :=
  ⟨by simp, by decide, by rw [List.length_replicate]⟩

/-- `WritersOfEachPieceOfState`: each piece is written by a step of its writer. -/
theorem wit_writers :
    answers (ready 0xA001 fun s => s) (fun t => t.i != 0#16) = true ∧
      answers (ready 0xF015 fun s => s.setV 0 1#8) (fun t => t.dt != 0#8) = true ∧
      answers (ready 0xF018 fun s => s.setV 0 1#8) (fun t => t.st != 0#8) = true ∧
      answers (ready 0x2200 fun s => s) (fun t => t.stack != State.reset.stack && t.sp != 0) = true ∧
      answers (ready 0x00EE fun s => { s with sp := 1 }) (fun t => t.sp == 0) = true ∧
      answers (ready 0x00E0 fun s => { s with dirty := false }) (fun t => t.dirty) = true ∧
      answers (ready 0x0000 fun s => s) (fun t => t.diags != []) = true ∧
      answers (ready 0xC0FF fun s => s) (fun t => t.draws != 0) = true := by decide

/-- `RegisterWritersAreAsListed`: a register changes, `VF` as a flag among them. -/
theorem wit_registerWriters :
    answers (ready 0x6001 fun s => s) (fun t => t.getV 0 != 0#8) = true ∧
      answers (ready 0x8014 fun s => (s.setV 0 0xFF#8).setV 1 1#8) (fun t => t.getV 0 != 0xFF#8 && t.getV 15 != 0#8) =
        true ∧
      answers (ready 0xD010 fun s => s.setV 15 9#8) (fun t => t.getV 15 != 9#8) = true := by decide

/-- `DirtyFlagIsSetAndNeverCleared`: an execution of each writer from a clear flag, and one of another instruction from a set flag. -/
theorem wit_dirty :
    (exec .cls { State.reset with dirty := false } = .next { State.reset with pc := 0x202#16 }) ∧
      (State.reset.SpriteFits 15) ∧
      answers (ready 0xD01F fun s => { s with dirty := false }) (fun t => t.dirty) = true ∧
      State.reset.dirty = true ∧ answers (ready 0x1200 fun s => s) (fun t => t.dirty) = true := by
  refine ⟨rfl, ?_, by decide, by decide, by decide⟩
  show (15 = 0 ∨ 0 + 15 ≤ 0x1000)
  decide

/-- `HiddenStateIsUnobservable`: two running states that differ in every hidden piece, and two faulted ones. -/
theorem wit_hidden :
    ProgramEquiv State.reset
        { State.reset with stack := Vector.replicate 16 0xFFFF#16, st := 7#8, dirty := false, diags := [⟨0#16, 0#16⟩] } ∧
      ProgramEquiv faulted { faulted with st := 7#8 } := by
  refine ⟨⟨rfl, rfl, rfl, rfl, rfl, rfl, rfl, rfl, rfl, rfl, rfl, fun k hk => absurd hk (Nat.not_lt_zero _)⟩,
    rfl, rfl, rfl, rfl, rfl, rfl, rfl, rfl, rfl, rfl, rfl, fun k _ => rfl⟩

/-- `CallPushesOrOverflows` and `ReturnPopsOrUnderflows`: both sides of both bounds. -/
theorem wit_stack :
    ({ State.reset with sp := 15 }).sp.val ≠ 16 ∧ edge.sp.val = 16 ∧ edge.sp.val ≠ 0 ∧ State.reset.sp.val = 0 := by decide

/-- `CompareSkips`: an equal and an unequal register. -/
theorem wit_compare : State.reset.getV 15 = 0#8 ∧ State.reset.getV 0 ≠ 0xFF#8 := by decide

/-- `TakenSkipIgnoresTheSkippedWord`: each of the four skips taken, and a memory that differs in the skipped word. -/
theorem wit_skips :
    (ready 0x3F00 fun s => s).SkipTaken (decodeWord (ready 0x3F00 fun s => s).fetchWord) ∧
      (ready 0x4F01 fun s => s).SkipTaken (decodeWord (ready 0x4F01 fun s => s).fetchWord) ∧
      (ready 0xE09E fun s => { s with keys := s.keys.set 0 true }).SkipTaken
        (decodeWord (ready 0xE09E fun s => { s with keys := s.keys.set 0 true }).fetchWord) ∧
      (ready 0xE0A1 fun s => s.setV 0 0x0F#8).SkipTaken (decodeWord (ready 0xE0A1 fun s => s.setV 0 0x0F#8).fetchWord) ∧
      (ready 0x3F00 fun s => s).fault = none ∧ (ready 0x3F00 fun s => s).fetchable = true ∧
      Memory.read ((ready 0x3F00 fun s => s).mem.write 0x202 0xFF#8) 0x200 = 0x3F#8 ∧
      Memory.read ((ready 0x3F00 fun s => s).mem.write 0x202 0xFF#8) 0x201 = 0x00#8 := by
  refine ⟨?_, ?_, ?_, ?_, by decide, by decide, by decide, by decide⟩
  · rw [show decodeWord (ready 0x3F00 fun s => s).fetchWord = .se 15 0x00#8 by decide]
    show (ready 0x3F00 fun s => s).getV 15 = 0x00#8
    decide
  · rw [show decodeWord (ready 0x4F01 fun s => s).fetchWord = .sne 15 0x01#8 by decide]
    show (ready 0x4F01 fun s => s).getV 15 ≠ 0x01#8
    decide
  · rw [show decodeWord (ready 0xE09E fun s => { s with keys := s.keys.set 0 true }).fetchWord = .skp 0 by decide]
    exact ⟨0, by decide, by decide⟩
  · rw [show decodeWord (ready 0xE0A1 fun s => s.setV 0 0x0F#8).fetchWord = .sknp 0 by decide]
    exact ⟨15, by decide, by decide⟩

/-- `TransferTargetsAreCheckedByTheNextFetch`: a jump and a call to an odd target, a return to an odd one and to `0x1000`. -/
theorem wit_transfers :
    State.reset.fault = none ∧ (0xFFF#16 : Word).toNat = (0xFFF#12 : Addr12).toNat ∧ (0xFFF#16 : Word).toNat % 2 = 1 ∧
      State.reset.sp.val < 16 ∧ edge.fault = none ∧ (15 : Fin 16).val + 1 = edge.sp.val ∧
      (0x1000#16 : Word) = edge.stack[15] + 2#16 ∧ (0x1000#16 : Word).toNat % 2 = 0 ∧ 0x1000 ≤ (0x1000#16 : Word).toNat ∧
      ((Vector.replicate 16 0x201#16)[0] + 2#16 : Word).toNat % 2 = 1 := by decide

/-- `NestedCallsAndReturnsRoundTrip`: all 16 levels, and all but one above an entry live at the start. -/
theorem wit_nested :
    State.reset.sp.val + ((List.replicate 15 (0x300#12 : Addr12)).length + 1) ≤ 16 ∧
      ({ State.reset with sp := 1 }).sp.val + ((List.replicate 14 (0x300#12 : Addr12)).length + 1) ≤ 16 ∧
      (0 : Fin 16).val < ({ State.reset with sp := 1 }).sp.val := by decide

/-- `AddWritesSumAndCarry`, `SubtractWritesDifferenceAndNoBorrow`, `VfOrderMattersOnlyForVf`: both kinds of destination, both orders. -/
theorem wit_vfOrder :
    (14 : Reg) ≠ 15 ∧ (15 : Reg) = 15 ∧ (exec (.addReg 0 15) State.reset = .next { State.reset with pc := 0x202#16 }) ∧
      (exec (.subReg 0 15) State.reset = .next { State.reset.setV 15 1#8 with pc := 0x202#16 }) ∧
      State.reset.cfg.vfOrder = .flagThenResult :=
  ⟨by decide, rfl, rfl, rfl, rfl⟩

/-- `SpritePositionsAreDistinct`: the last position of the largest sprite, wrapped on both axes. -/
theorem wit_position :
    15 ≤ 15 ∧ 7 < 8 ∧ columnOf 0xFF#8 7 = columnOf 0xFF#8 7 ∧ rowOf 0xFF#8 15 = rowOf 0xFF#8 15 := by decide

/-- A state about to draw one byte `0x80` at the top left corner, with that cell on or off. -/
def drawing (on : Bool) : State :=
  { State.reset with
    i := 0xFFF#16, mem := [(0xFFF, 0x80#8)], disp := if on then Display.toggle Display.blank 0 0 else Display.blank }

/-- `DrawTogglesTheCoveredCells`, `DrawingTwiceRestores`: the last byte of memory fits under `ACCESS`, no sprite bytes fit
everywhere, a covered and an uncovered cell, a collision and none, coordinates the draw leaves alone. -/
theorem wit_draw :
    (drawing true).SpriteFits (1#4 : Nibble).toNat ∧ (drawing true).SpriteFits (0#4 : Nibble).toNat ∧
      (drawing true).Covered 0 1 1#4 0 0 ∧ ¬ (drawing true).Covered 0 1 1#4 1 0 ∧
      Display.cell (drawing true).disp 0 0 = true ∧ Display.cell (drawing false).disp 0 0 = false ∧
      (drawing false).disp = Display.blank ∧ (drawing false).mem.read ((drawing false).i.toNat + 0) ≠ 0#8 ∧
      (match exec (.drw 0 1 1#4) (drawing false) with
        | .next t => t.getV 0 == (drawing false).getV 0 && t.getV 1 == (drawing false).getV 1
        | .fault _ => false
        | .refused _ => false) = true := by
  refine ⟨?_, ?_, ⟨0, 0, by decide, by decide, by decide, by decide, by decide⟩, ?_, by decide, by decide, by decide,
    by decide, by decide⟩
  · show ((1#4 : Nibble).toNat = 0 ∨ (drawing true).i.toNat + (1#4 : Nibble).toNat ≤ 0x1000)
    decide
  · show ((0#4 : Nibble).toNat = 0 ∨ (drawing true).i.toNat + (0#4 : Nibble).toNat ≤ 0x1000)
    decide
  · rintro ⟨r, c, hr, hc, hb, hx, -⟩
    have hr0 : r = 0 := by
      have : (1#4 : Nibble).toNat = 1 := by decide
      omega
    subst hr0
    have hv : ((drawing true).getV 0).toNat = 0 := by decide
    have h1 : (1 : Fin 64).val = 1 := by decide
    have hc1 : c = 1 := by rw [hv, h1] at hx; omega
    subst hc1
    revert hb
    decide

/-- `DrawOutOfRangeFaults`: one byte past the bound under each setting, and the empty sprite at the top. -/
theorem wit_drawOutside :
    ¬ (drawing true).SpriteFits (2#4 : Nibble).toNat ∧
      ¬ ({ drawing true with cfg := { defaultConfig with spriteBound := .literal } }).SpriteFits (1#4 : Nibble).toNat ∧
      spriteOutOfRange .access 0xFFF 1 = false ∧ spriteOutOfRange .literal 0xFFF 1 = true := by
  refine ⟨?_, ?_, by decide, by decide⟩
  · show ¬ ((2#4 : Nibble).toNat = 0 ∨ (drawing true).i.toNat + (2#4 : Nibble).toNat ≤ 0x1000)
    decide
  · show ¬ ((drawing true).i.toNat + (1#4 : Nibble).toNat ≤ 0xFFF)
    decide

/-- `KeySkipsReadTheLatch`: the last key pressed and released, and the first index past it. -/
theorem wit_keys :
    (15 : Key).val = ((State.reset.setV 0 0x0F#8).getV 0).toNat ∧ (State.reset.setV 0 0x0F#8).keyLevel 15 = false ∧
      ((State.reset.setV 0 0x0F#8).keyWrite 15 true).keyLevel 15 = true ∧
      0xF < ((State.reset.setV 0 0x10#8).getV 0).toNat := by decide

/-- `UnrecognizedWordOnlyAdvances`: the zero word of empty memory, at the last place it can be fetched from. -/
theorem wit_unrecognized :
    ({ State.reset with pc := 0xFFE#16 }).fault = none ∧ ({ State.reset with pc := 0xFFE#16 }).fetchable = true ∧
      unrecognizedWord ({ State.reset with pc := 0xFFE#16 }).fetchWord = true := by decide

/-- `RunningOffTheImageEndsAtTheTop`: from reset, and already at the top. -/
theorem wit_runningOff :
    State.reset.fault = none ∧ State.reset.pc.toNat % 2 = 0 ∧ State.reset.pc.toNat ≤ 0x1000 ∧
      (∀ a : Nat, State.reset.pc.toNat ≤ a → a ≤ 0xFFF → State.reset.mem.read a = 0#8) ∧
      ({ State.reset with pc := 0x1000#16 }).pc.toNat ≤ 0x1000 :=
  ⟨rfl, by decide, by decide, fun _ _ _ => rfl, by decide⟩

/-- `TickDecrementsBothTimers`: a timer at 255, at 1 and at 0. -/
theorem wit_tick : (255#8 : Byte).toNat > 0 ∧ (1#8 : Byte).toNat > 0 ∧ (0#8 : Byte).toNat = 0 := by decide

/-- A session past its load, with one image word `F007`, the delay timer at 1. -/
def timing : Session := { block := ready 0xF007 fun s => { s with dt := 1#8 }, phase := .loaded }

/-- The word `FX15` at an odd `pc`, where no step executes it. -/
def unfetched : Session :=
  { block := { State.reset with pc := 0x201#16, mem := [(0x201, 0xF0#8), (0x202, 0x15#8)], dt := 1#8 }, phase := .loaded }

/-- The sessions of the two witnesses below step once, after one tick. -/
theorem tick_before_step {done todo : List Op} (h : [Op.tick, .step, .tick] = done ++ .step :: todo) : done = [.tick] := by
  match done, h with
  | [], h => simp at h
  | [a], h => simp at h; rw [h.1]
  | [a, b], h => simp at h
  | [a, b, c], h => simp at h
  | a :: b :: c :: d :: e, h => simp at h

/-- `DelayTimerCountsTicksNotSteps`: ticks past 0 around a step that reads the timer and does not write it. -/
theorem wit_delay :
    (∀ op ∈ [Op.tick, .step, .tick], op ≠ .reset) ∧
      (∀ (done todo : List Op) (ρ : Session), [Op.tick, .step, .tick] = done ++ .step :: todo →
        timing.play done = some ρ → ρ.block.fault = none → ρ.block.fetchable = true →
        ∀ x : Reg, decodeWord ρ.block.fetchWord ≠ .ldDtVx x) ∧
      (timing.play [.tick, .step, .tick]).isSome = true := by
  refine ⟨by decide, ?_, by decide⟩
  intro done todo ρ h hp _ _ x
  obtain rfl := tick_before_step h
  simp only [Session.play, Session.perform, Option.some.injEq] at hp
  subst hp
  show decodeWord timing.block.tick.fetchWord ≠ .ldDtVx x
  rw [show decodeWord timing.block.tick.fetchWord = .ldVxDt 0 by decide]
  exact fun h => by cases h

/-- `DelayTimerCountsTicksNotSteps`: the same session where the bytes at `pc` spell `FX15` and the fetch fails. -/
theorem wit_delay_unfetched :
    decodeWord unfetched.block.fetchWord = .ldDtVx 0 ∧
      (∀ (done todo : List Op) (ρ : Session), [Op.tick, .step, .tick] = done ++ .step :: todo →
        unfetched.play done = some ρ → ρ.block.fault = none → ρ.block.fetchable = true →
        ∀ x : Reg, decodeWord ρ.block.fetchWord ≠ .ldDtVx x) ∧
      (unfetched.play [.tick, .step, .tick]).isSome = true := by
  refine ⟨by decide, ?_, by decide⟩
  intro done todo ρ h hp _ hf
  obtain rfl := tick_before_step h
  simp only [Session.play, Session.perform, Option.some.injEq] at hp
  subst hp
  exact absurd hf (by decide)

/-- `KeyWriteAndDirtyClearChangeOneThing`: another key than the one written. -/
theorem wit_otherKey : (0 : Key) ≠ 15 := by decide

/-- `LoadCopiesOrFails`, `BootDutiesAreEnforced`: both sides of the length bound, from the reset memory, in each phase. -/
theorem wit_load :
    State.reset.mem.wf = true ∧ (List.replicate 3585 0#8).length > 3584 ∧ (List.replicate 3584 0#8).length ≤ 3584 ∧
      (Session.created defaultConfig).phase = .fresh ∧ timing.phase = .loaded ∧
      ({ timing with phase := .loadFailed }).phase = .loadFailed ∧ State.reset = State.resetWith defaultConfig :=
  ⟨by decide, by rw [List.length_replicate]; decide, by rw [List.length_replicate], rfl, rfl, rfl, rfl⟩

end Sys2Proof.Tests
end

section
/-! The state after reset, in R35's table (10_state.md), and O8. -/

namespace Sys2Proof.Machine

@[simp] theorem State.resetWith_read (c : Config) (a : Nat) : (State.resetWith c).mem.read a = 0#8 :=
  Memory.read_nil a

@[simp] theorem State.resetWith_getV (c : Config) (x : Reg) : (State.resetWith c).getV x = 0#8 :=
  Vector.getElem_replicate x.isLt

@[simp] theorem State.resetWith_stackEntry (c : Config) {k : Nat} (h : k < 16) : (State.resetWith c).stack[k] = 0#16 :=
  Vector.getElem_replicate h

@[simp] theorem State.resetWith_keyLevel (c : Config) (k : Key) : (State.resetWith c).keyLevel k = false :=
  Vector.getElem_replicate k.isLt

/-- The display after reset is the one `00E0` leaves. -/
@[simp] theorem State.resetWith_disp (c : Config) : (State.resetWith c).disp = Display.blank := rfl

/-- Settles O8: the arrays of the state read as zero by the lemmas above, at every index; the scalar fields are given as
literals. -/
theorem resetValues : Obligations.ResetValues := by
  intro c s
  have hcell (x : Fin 64) (y : Fin 32) : Display.cell s.disp x y = false := by
    rw [State.resetWith_disp, Display.cell_blank]
  exact ⟨State.resetWith_read c, State.resetWith_getV c, rfl, rfl, fun k => State.resetWith_stackEntry c k.isLt, rfl, rfl,
    rfl, hcell, rfl, State.resetWith_keyLevel c, rfl⟩

end Sys2Proof.Machine
end

section
/-! The fetched word as a big-endian number (20_memory.md R54), and O11. -/

namespace Sys2Proof.Machine

/-- Two bytes always fit a word, so combining them loses nothing. -/
@[simp] theorem wordOfBytes_toNat (hi lo : Byte) : (wordOfBytes hi lo).toNat = hi.toNat * 256 + lo.toNat := by
  have hhi := hi.isLt
  have hlo := lo.isLt
  rw [wordOfBytes, BitVec.toNat_ofNat]
  exact Nat.mod_eq_of_lt (by omega)

theorem State.fetchWord_toNat (s : State) :
    s.fetchWord.toNat = (s.mem.read s.pc.toNat).toNat * 256 + (s.mem.read (s.pc.toNat + 1)).toNat :=
  wordOfBytes_toNat _ _

/-- Settles O11: the fetched word has the stated value, and a word is determined by its value. -/
theorem fetchReadsTwoBytesBigEndian : Obligations.FetchReadsTwoBytesBigEndian := by
  intro s w hclear heven hin hw
  have hword : w = s.fetchWord := BitVec.eq_of_toNat_eq (hw.trans s.fetchWord_toNat.symm)
  have hfetch : s.fetchable = true := s.fetchable_iff.2 ⟨heven, by omega⟩
  rw [hword, step_of_fetchable hclear hfetch]

end Sys2Proof.Machine
end

section
/-! The operands of a decoded instruction (30_encoding.md R71), and O4. -/

namespace Sys2Proof.Machine

/-- Settles O4: the decoder takes each operand from a field, and a field's arithmetic is the slice R71 gives. -/
theorem operandsAreFixedSlices : Obligations.OperandsAreFixedSlices := by
  intro w
  have hx := xField_val w
  have hy := yField_val w
  have hn := nField_toNat w
  have hnn := nnField_toNat w
  have hnnn := nnnField_toNat w
  exact decodeWord_elim w (P := OperandsAreSlices w)
    (cls := fun _ => trivial) (ret := fun _ => trivial)
    (jp := fun _ => hnnn) (call := fun _ => hnnn) (ldI := fun _ => hnnn)
    (se := fun _ => ⟨hx, hnn⟩) (sne := fun _ => ⟨hx, hnn⟩) (ldByte := fun _ => ⟨hx, hnn⟩)
    (addByte := fun _ => ⟨hx, hnn⟩) (rnd := fun _ => ⟨hx, hnn⟩)
    (ldReg := fun _ _ => ⟨hx, hy⟩) (orReg := fun _ _ => ⟨hx, hy⟩) (andReg := fun _ _ => ⟨hx, hy⟩)
    (xorReg := fun _ _ => ⟨hx, hy⟩) (addReg := fun _ _ => ⟨hx, hy⟩) (subReg := fun _ _ => ⟨hx, hy⟩)
    (drw := fun _ => ⟨hx, hy, hn⟩)
    (skp := fun _ _ => hx) (sknp := fun _ _ => hx)
    (ldVxDt := fun _ _ => hx) (ldDtVx := fun _ _ => hx) (ldStVx := fun _ _ => hx)
    (unrecognized := fun _ => rfl)

end Sys2Proof.Machine
end

section
/-! The decoder against the opcode table (30_encoding.md R74), and O3: the rows are disjoint, every decoded instruction
matches the row of its label, and a word that is left over matches none. -/

namespace Sys2Proof.Machine

-- A row's test as a test of fields: a pattern inside its mask is matched exactly when the masked fields agree.

theorem and_F000_eq_iff {w p : Word} (hp : p &&& 0xF000#16 = p) : w &&& 0xF000#16 = p ↔ opField w = opField p := by
  have hpat := congrArg BitVec.toNat hp
  rw [and_F000_toNat] at hpat
  rw [word_eq_iff, and_F000_toNat, opField_eq_iff, opField_toNat]
  omega

theorem and_F00F_eq_iff {w p : Word} (hp : p &&& 0xF00F#16 = p) :
    w &&& 0xF00F#16 = p ↔ opField w = opField p ∧ nField w = nField p := by
  have hpat := congrArg BitVec.toNat hp
  rw [and_F00F_toNat] at hpat
  rw [word_eq_iff, and_F00F_toNat, opField_eq_iff, opField_toNat, nField_eq_iff, nField_toNat]
  omega

theorem and_F0FF_eq_iff {w p : Word} (hp : p &&& 0xF0FF#16 = p) :
    w &&& 0xF0FF#16 = p ↔ opField w = opField p ∧ nnField w = nnField p := by
  have hpat := congrArg BitVec.toNat hp
  rw [and_F0FF_toNat] at hpat
  rw [word_eq_iff, and_F0FF_toNat, opField_eq_iff, opField_toNat, nnField_eq_iff, nnField_toNat]
  omega

-- The table.

theorem opcodeTable_label_injective {r r' : OpcodeRow} (hr : r ∈ opcodeTable) (hr' : r' ∈ opcodeTable)
    (h : r.label = r'.label) : r = r' :=
  List.inj_on_of_nodup_map (f := OpcodeRow.label) (by decide) hr hr' h

theorem opcodeTable_label_ne_word : ∀ r ∈ opcodeTable, r.label ≠ ".word" := by decide

/-- Two rows whose patterns agree on the bits both fix are one row. -/
theorem opcodeTable_patterns_disjoint :
    ∀ r ∈ opcodeTable, ∀ r' ∈ opcodeTable, r.pattern &&& r'.mask = r'.pattern &&& r.mask → r = r' := by decide

/-- No word matches two rows. -/
theorem opcodeTable_match_unique {w : Word} {r r' : OpcodeRow} (hr : r ∈ opcodeTable) (hr' : r' ∈ opcodeTable)
    (h : w &&& r.mask = r.pattern) (h' : w &&& r'.mask = r'.pattern) : r = r' := by
  apply opcodeTable_patterns_disjoint r hr r' hr'
  calc r.pattern &&& r'.mask
      = w &&& r.mask &&& r'.mask := by rw [h]
    _ = w &&& r'.mask &&& r.mask := by rw [BitVec.and_assoc, BitVec.and_comm r.mask, BitVec.and_assoc]
    _ = r'.pattern &&& r.mask := by rw [h']

-- The decoder.

/-- The instruction's label names a row that the word matches. -/
def MatchesItsRow (w : Word) (i : Instr) : Prop :=
  ∃ row ∈ opcodeTable, i.label = row.label ∧ w &&& row.mask = row.pattern

/-- The row is given by its place in the table. -/
theorem MatchesItsRow.ofRow {w : Word} {i : Instr} (k : Fin 22) (hlabel : i.label = opcodeTable[k].label)
    (hmatch : w &&& opcodeTable[k].mask = opcodeTable[k].pattern) : MatchesItsRow w i :=
  ⟨opcodeTable[k], List.getElem_mem _, hlabel, hmatch⟩

/-- What the decoder leaves over, told by fields, matches no row's mask and pattern: in the families with instructions
the selector differs, in `0x5`, `0x9` and `0xB` the family does. -/
theorem noRow_matches_none {w : Word} (h : NoRow w) : ∀ row ∈ opcodeTable, w &&& row.mask ≠ row.pattern := by
  simp only [opcodeTable, List.cons_append, List.nil_append, List.forall_mem_cons, List.not_mem_nil, false_implies,
    implies_true, and_true, word_eq_iff, and_FFFF, and_F000_toNat, and_F00F_toNat, and_F0FF_toNat, BitVec.toNat_ofNat,
    ne_eq]
  simp only [NoRow, opField_eq_iff, nField_eq_iff, nnField_eq_iff, word_eq_iff, BitVec.toNat_ofNat, ne_eq] at h
  rcases h with fixed | regReg | keySkip | timer | family5 | family9 | familyB <;> omega

/-- The decoded instruction is that of a row the word matches, or the word is left over. -/
theorem decodeWord_matches_row (w : Word) :
    MatchesItsRow w (decodeWord w) ∨
      decodeWord w = .unrecognized w ∧ ∀ row ∈ opcodeTable, w &&& row.mask ≠ row.pattern :=
  decodeWord_elim w
    (P := fun i => MatchesItsRow w i ∨ i = .unrecognized w ∧ ∀ row ∈ opcodeTable, w &&& row.mask ≠ row.pattern)
    (cls := fun h => .inl (.ofRow 0 rfl ((and_FFFF w).trans h)))
    (ret := fun h => .inl (.ofRow 1 rfl ((and_FFFF w).trans h)))
    (jp := fun h => .inl (.ofRow 2 rfl ((and_F000_eq_iff rfl).2 h)))
    (call := fun h => .inl (.ofRow 3 rfl ((and_F000_eq_iff rfl).2 h)))
    (se := fun h => .inl (.ofRow 4 rfl ((and_F000_eq_iff rfl).2 h)))
    (sne := fun h => .inl (.ofRow 5 rfl ((and_F000_eq_iff rfl).2 h)))
    (ldByte := fun h => .inl (.ofRow 6 rfl ((and_F000_eq_iff rfl).2 h)))
    (addByte := fun h => .inl (.ofRow 7 rfl ((and_F000_eq_iff rfl).2 h)))
    (ldReg := fun h hn => .inl (.ofRow 8 rfl ((and_F00F_eq_iff rfl).2 ⟨h, hn⟩)))
    (orReg := fun h hn => .inl (.ofRow 9 rfl ((and_F00F_eq_iff rfl).2 ⟨h, hn⟩)))
    (andReg := fun h hn => .inl (.ofRow 10 rfl ((and_F00F_eq_iff rfl).2 ⟨h, hn⟩)))
    (xorReg := fun h hn => .inl (.ofRow 11 rfl ((and_F00F_eq_iff rfl).2 ⟨h, hn⟩)))
    (addReg := fun h hn => .inl (.ofRow 12 rfl ((and_F00F_eq_iff rfl).2 ⟨h, hn⟩)))
    (subReg := fun h hn => .inl (.ofRow 13 rfl ((and_F00F_eq_iff rfl).2 ⟨h, hn⟩)))
    (ldI := fun h => .inl (.ofRow 14 rfl ((and_F000_eq_iff rfl).2 h)))
    (rnd := fun h => .inl (.ofRow 15 rfl ((and_F000_eq_iff rfl).2 h)))
    (drw := fun h => .inl (.ofRow 16 rfl ((and_F000_eq_iff rfl).2 h)))
    (skp := fun h hnn => .inl (.ofRow 17 rfl ((and_F0FF_eq_iff rfl).2 ⟨h, hnn⟩)))
    (sknp := fun h hnn => .inl (.ofRow 18 rfl ((and_F0FF_eq_iff rfl).2 ⟨h, hnn⟩)))
    (ldVxDt := fun h hnn => .inl (.ofRow 19 rfl ((and_F0FF_eq_iff rfl).2 ⟨h, hnn⟩)))
    (ldDtVx := fun h hnn => .inl (.ofRow 20 rfl ((and_F0FF_eq_iff rfl).2 ⟨h, hnn⟩)))
    (ldStVx := fun h hnn => .inl (.ofRow 21 rfl ((and_F0FF_eq_iff rfl).2 ⟨h, hnn⟩)))
    (unrecognized := fun h => .inr ⟨rfl, noRow_matches_none h⟩)

/-- Settles O3: the row a word decodes to matches it, and since the rows are disjoint and differently labelled, no other
row does; an unrecognized word has a label of no row and matches none. -/
theorem decoderIsTheOpcodeTable : Obligations.DecoderIsTheOpcodeTable := by
  intro w
  rcases decodeWord_matches_row w with ⟨row₀, hrow₀, hlabel, hmatch⟩ | ⟨hword, hnone⟩
  · constructor
    · intro row hrow
      constructor
      · intro h
        rw [← opcodeTable_label_injective hrow₀ hrow (hlabel.symm.trans h)]
        exact hmatch
      · intro h
        rw [← opcodeTable_match_unique hrow₀ hrow hmatch h]
        exact hlabel
    · constructor
      · intro h
        rw [h] at hlabel
        exact absurd hlabel.symm (opcodeTable_label_ne_word row₀ hrow₀)
      · intro h
        exact absurd hmatch (h row₀ hrow₀)
  · constructor
    · intro row hrow
      rw [hword]
      exact iff_of_false (opcodeTable_label_ne_word row hrow).symm (hnone row hrow)
    · exact iff_of_true hword hnone

end Sys2Proof.Machine
end

section
/-! The words of the control-flow instructions, what the stack and skip operations leave, and O30 to O33
(40_control_flow.md R103 to R107). -/

namespace Sys2Proof.Machine

-- The words: each family is selected by the high nibble alone, and the fields give back the operands.

theorem decodeWord_jp (nnn : Addr12) : decodeWord (formatA 0x1#4 nnn) = .jp nnn := by
  simp [decodeWord]

theorem decodeWord_call (nnn : Addr12) : decodeWord (formatA 0x2#4 nnn) = .call nnn := by
  simp [decodeWord]

theorem decodeWord_se (x : Reg) (nn : Byte) : decodeWord (formatB 0x3#4 x nn) = .se x nn := by
  simp [decodeWord]

theorem decodeWord_sne (x : Reg) (nn : Byte) : decodeWord (formatB 0x4#4 x nn) = .sne x nn := by
  simp [decodeWord]

-- Targets.

@[simp] theorem zext16_toNat (nnn : Addr12) : (zext16 nnn).toNat = nnn.toNat :=
  BitVec.toNat_setWidth_of_le (by decide)

theorem State.skipIf_pc_taken (s : State) {c : Bool} (h : c = true) :
    (s.skipIf c).pc.toNat = (s.pc.toNat + 4) % 2 ^ 16 := by
  rw [State.skipIf_pc, if_pos h, BitVec.toNat_add]; rfl

theorem State.skipIf_pc_notTaken (s : State) {c : Bool} (h : c = false) :
    (s.skipIf c).pc.toNat = (s.pc.toNat + 2) % 2 ^ 16 := by
  rw [State.skipIf_pc, h, if_neg Bool.false_ne_true, pc_add_two]

/-- A skip is a write of `pc`, taken or not. -/
theorem registerFrame_skipIf (s : State) (c : Bool) : RegisterFrame s (s.skipIf c) [] :=
  registerFrame_setPc s _

-- The stack.

/-- The frame of a call or return that completes: all but the stack, its depth and `pc` is unchanged. -/
def SameButStack (s t : State) : Prop :=
  SameV s t [] ∧ t.i = s.i ∧ SameMem s t ∧ SameTimers s t ∧ SameDisplay s t ∧ SameHost s t ∧ SameRecords s t

theorem sameButStack_push_setPc (s : State) (w target : Word) (room : s.sp.val < stackDepth) :
    SameButStack s ((s.push w room).setPc target) :=
  ⟨fun _ _ => rfl, rfl, fun _ => rfl, ⟨rfl, rfl⟩, ⟨rfl, rfl⟩, ⟨rfl, rfl, rfl⟩, rfl, rfl⟩

theorem sameButStack_drop_setPc (s : State) (target : Word) : SameButStack s (s.drop.setPc target) :=
  ⟨fun _ _ => rfl, rfl, fun _ => rfl, ⟨rfl, rfl⟩, ⟨rfl, rfl⟩, ⟨rfl, rfl, rfl⟩, rfl, rfl⟩

theorem State.push_entry_at_sp (s : State) (w : Word) (room : s.sp.val < stackDepth) {k : Fin 16}
    (hk : k.val = s.sp.val) : (s.push w room).stack[k] = w := by
  rw [State.push_entry, if_pos hk.symm]

theorem State.push_entry_elsewhere (s : State) (w : Word) (room : s.sp.val < stackDepth) {k : Fin 16}
    (hk : k.val ≠ s.sp.val) : (s.push w room).stack[k] = s.stack[k] := by
  rw [State.push_entry, if_neg hk.symm]

/-- The entry a return takes stands where `sp` points after the decrement. -/
theorem State.top_eq_entry (s : State) (live : 0 < s.sp.val) {k : Fin 16} (hk : k.val = s.drop.sp.val) :
    s.top live = s.stack[k] := by
  have hk : k.val = s.sp.val - 1 := hk
  simp only [State.top, Fin.getElem_fin, hk]

-- The obligations.

/-- Settles O30: a jump is one write of `pc`, and zero-extension keeps the value of `NNN`. -/
theorem jumpSetsPc : Obligations.JumpSetsPc := by
  intro nnn s
  exact ⟨decodeWord_jp nnn, s.setPc (zext16 nnn), rfl, zext16_toNat nnn, registerFrame_setPc s _, rfl, rfl⟩

/-- Settles O31, by the two branches of the call: a depth of at most 16 that is not 16 leaves room. -/
theorem callPushesOrOverflows : Obligations.CallPushesOrOverflows := by
  intro nnn s
  refine ⟨decodeWord_call nnn, fun hne => ?_, fun hfull => exec_call_full nnn hfull⟩
  have room : s.sp.val < stackDepth := Nat.lt_of_le_of_ne (Nat.le_of_lt_succ s.sp.isLt) hne
  exact ⟨(s.push s.pc room).setPc (zext16 nnn), exec_call_room nnn room, zext16_toNat nnn, rfl,
    fun _ hk => s.push_entry_at_sp s.pc room hk, fun _ hk => s.push_entry_elsewhere s.pc room hk,
    sameButStack_push_setPc s s.pc _ room⟩

/-- Settles O32, by the two branches of the return: `pc` becomes the top entry plus 2, and dropping it only moves `sp`. -/
theorem returnPopsOrUnderflows : Obligations.ReturnPopsOrUnderflows := by
  intro s
  refine ⟨by decide, fun hne => ?_, fun hempty => exec_ret_empty hempty⟩
  have live : 0 < s.sp.val := Nat.pos_of_ne_zero hne
  refine ⟨s.drop.setPc (s.top live + 2#16), exec_ret_live live, Nat.sub_add_cancel live, rfl, fun k hk => ?_,
    sameButStack_drop_setPc s _⟩
  rw [State.setPc_pc, pc_add_two, s.top_eq_entry live hk]

/-- Settles O33: both skips are `skipIf`, each with its own test of `V[X]` against `NN`. -/
theorem compareSkips : Obligations.CompareSkips := by
  intro x nn s
  refine ⟨decodeWord_se x nn, decodeWord_sne x nn, ?_, ?_⟩
  · exact ⟨s.skipIf (s.getV x == nn), rfl, registerFrame_skipIf s _, ⟨rfl, rfl⟩,
      fun heq => s.skipIf_pc_taken (beq_iff_eq.2 heq),
      fun hne => s.skipIf_pc_notTaken (beq_eq_false_iff_ne.2 hne)⟩
  · exact ⟨s.skipIf (s.getV x != nn), rfl, registerFrame_skipIf s _, ⟨rfl, rfl⟩,
      fun hne => s.skipIf_pc_taken (bne_iff_ne.2 hne),
      fun heq => s.skipIf_pc_notTaken (bne_eq_false_iff_eq.2 heq)⟩

end Sys2Proof.Machine
end

section
/-! The words of the register, arithmetic and index instructions, what the register writes leave, and O37 to O41 and O43
(41_register_alu.md R120 to R131; FX07 of 43_keys_timers.md R173). -/

namespace Sys2Proof.Machine

-- The words.

theorem decodeWord_ldByte (x : Reg) (nn : Byte) : decodeWord (formatB 0x6#4 x nn) = .ldByte x nn := by
  simp [decodeWord]

theorem decodeWord_addByte (x : Reg) (nn : Byte) : decodeWord (formatB 0x7#4 x nn) = .addByte x nn := by
  simp [decodeWord]

theorem decodeWord_ldI (nnn : Addr12) : decodeWord (formatA 0xA#4 nnn) = .ldI nnn := by
  simp [decodeWord]

/-- A word of family `0xF` whose low byte is written into the pattern. -/
theorem decodeWord_timer (x : Reg) (nn : Byte) :
    decodeWord (BitVec.ofNat 16 (0xF000 + nn.toNat + x.val * 0x100)) = decodeTimer (formatB 0xF#4 x nn) := by
  rw [Nat.add_right_comm]
  show decodeWord (formatB 0xF#4 x nn) = _
  simp [decodeWord]

/-- A word of family `0x8` whose low nibble is written into the pattern. -/
theorem decodeWord_regReg (x y : Reg) (n : Nibble) :
    decodeWord (BitVec.ofNat 16 (0x8000 + n.toNat + x.val * 0x100 + y.val * 0x10)) =
      decodeRegReg (formatC 0x8#4 x y n) := by
  rw [Nat.add_right_comm _ n.toNat, Nat.add_right_comm _ n.toNat]
  show decodeWord (formatC 0x8#4 x y n) = _
  simp [decodeWord]

-- One register written.

/-- What is left of a state when register `x` takes `b` and the instruction ends. -/
theorem State.setV_advance (s : State) (x : Reg) (b : Byte) :
    (s.setV x b).advance.getV x = b ∧ (s.setV x b).advance.pc.toNat = (s.pc.toNat + 2) % 2 ^ 16 ∧
      RegisterFrame s (s.setV x b).advance [x] ∧ SameRecords s (s.setV x b).advance :=
  ⟨s.getV_setV_self x b, pc_add_two s.pc, registerFrame_setV s x b, rfl, rfl⟩

-- A result and a flag written, in the order VF_ORDER.

theorem State.getV_setResultAndFlag_dest (s : State) {x : Reg} (b : Byte) (c : Bool) (hx : x ≠ flagReg) :
    (s.setResultAndFlag x b c).getV x = b := by
  rw [State.getV_setResultAndFlag]
  cases s.cfg.vfOrder <;> simp only [if_neg hx.symm, if_true]

theorem State.getV_setResultAndFlag_flagReg (s : State) {x : Reg} (b : Byte) (c : Bool) (hx : x ≠ flagReg) :
    (s.setResultAndFlag x b c).getV flagReg = flagByte c := by
  rw [State.getV_setResultAndFlag]
  cases s.cfg.vfOrder <;> simp only [if_neg hx, if_true]

/-- What is left of a state when register `x` takes a result, `VF` a flag and the instruction ends, the bytes read as
numbers by `val`: with `x = VF` the write that `VF_ORDER` puts last survives (R122). -/
theorem State.setResultAndFlag_advance {α : Type} (val : Byte → α) (s : State) (x : Reg) {b : Byte} {c : Bool}
    {res flag : α} (hres : val b = res) (hflag : val (flagByte c) = flag) :
    (x ≠ flagReg → val ((s.setResultAndFlag x b c).advance.getV x) = res ∧
      val ((s.setResultAndFlag x b c).advance.getV flagReg) = flag) ∧
    (x = flagReg → val ((s.setResultAndFlag x b c).advance.getV flagReg) =
      match s.cfg.vfOrder with
      | .flagThenResult => res
      | .resultThenFlag => flag) ∧
    (s.setResultAndFlag x b c).advance.pc.toNat = (s.pc.toNat + 2) % 2 ^ 16 ∧
    RegisterFrame s (s.setResultAndFlag x b c).advance [x, 15] ∧
    SameRecords s (s.setResultAndFlag x b c).advance := by
  refine ⟨fun hx => ?_, fun hx => ?_, ?_, registerFrame_setResultAndFlag s x b c,
    s.setResultAndFlag_draws x b c, s.setResultAndFlag_diags x b c⟩
  · rw [State.advance_getV, State.advance_getV, s.getV_setResultAndFlag_dest b c hx,
      s.getV_setResultAndFlag_flagReg b c hx]
    exact ⟨hres, hflag⟩
  · subst hx
    rw [State.advance_getV, State.getV_setResultAndFlag, if_pos rfl, if_pos rfl]
    cases s.cfg.vfOrder with
    | flagThenResult => exact hres
    | resultThenFlag => exact hflag
  · rw [State.advance_pc, State.setResultAndFlag_pc, pc_add_two]

-- The values as numbers.

theorem flagByte_decide_toNat (p : Prop) [Decidable p] : (flagByte (decide p)).toNat = if p then 1 else 0 := by
  by_cases h : p <;> simp [flagByte, h]

theorem carryFlag_toNat (a b : Byte) :
    (flagByte (carryFlag a b)).toNat = if a.toNat + b.toNat > 255 then 1 else 0 :=
  flagByte_decide_toNat _

theorem noBorrowFlag_toInt (a b : Byte) :
    ((flagByte (noBorrowFlag a b)).toNat : Int) = if b.toNat ≤ a.toNat then 1 else 0 := by
  rw [noBorrowFlag, flagByte_decide_toNat, Nat.cast_ite, Nat.cast_one, Nat.cast_zero]

theorem byteAdd_toNat (a b : Byte) : (a + b).toNat = (a.toNat + b.toNat) % 256 := BitVec.toNat_add a b

theorem byteSub_toInt (a b : Byte) : ((a - b).toNat : Int) = ((a.toNat : Int) - (b.toNat : Int)) % 256 := by
  have := b.isLt
  rw [BitVec.toNat_sub]
  omega

-- The obligations.

/-- Settles O37: the three loads are one register write each, of `NN`, `V[Y]` and `DT`. -/
theorem loadsWriteOneRegister : Obligations.LoadsWriteOneRegister := by
  intro x y nn s
  exact ⟨decodeWord_ldByte x nn, (decodeWord_regReg x y 0x0#4).trans (by simp [decodeRegReg]),
    (decodeWord_timer x 0x07#8).trans (by simp [decodeTimer]), ⟨_, rfl, s.setV_advance x nn⟩,
    ⟨_, rfl, s.setV_advance x (s.getV y)⟩, ⟨_, rfl, s.setV_advance x s.dt⟩⟩

/-- Settles O38: one register write, of a byte sum. -/
theorem addImmediateWrapsWithoutFlag : Obligations.AddImmediateWrapsWithoutFlag := by
  intro x nn s
  obtain ⟨hv, hrest⟩ := s.setV_advance x (s.getV x + nn)
  exact ⟨decodeWord_addByte x nn, _, rfl, by rw [hv, byteAdd_toNat], hrest⟩

/-- Settles O39: one register write each, of a bitwise combination. -/
theorem logicIsBitwiseWithoutFlag : Obligations.LogicIsBitwiseWithoutFlag := by
  intro x y s
  refine ⟨(decodeWord_regReg x y 0x1#4).trans (by simp [decodeRegReg]),
    (decodeWord_regReg x y 0x2#4).trans (by simp [decodeRegReg]),
    (decodeWord_regReg x y 0x3#4).trans (by simp [decodeRegReg]), ?_, ?_, ?_⟩
  · obtain ⟨hv, hrest⟩ := s.setV_advance x (s.getV x ||| s.getV y)
    exact ⟨_, rfl, fun k => by rw [hv, BitVec.getLsbD_or], hrest⟩
  · obtain ⟨hv, hrest⟩ := s.setV_advance x (s.getV x &&& s.getV y)
    exact ⟨_, rfl, fun k => by rw [hv, BitVec.getLsbD_and], hrest⟩
  · obtain ⟨hv, hrest⟩ := s.setV_advance x (s.getV x ^^^ s.getV y)
    exact ⟨_, rfl, fun k => by rw [hv, BitVec.getLsbD_xor], hrest⟩

/-- Settles O40: a byte sum and its carry, written as a result and a flag. -/
theorem addWritesSumAndCarry : Obligations.AddWritesSumAndCarry := by
  intro x y s sum flag
  have hsum : (s.getV x + s.getV y).toNat = sum % 256 := byteAdd_toNat _ _
  have hcarry : (flagByte (carryFlag (s.getV x) (s.getV y))).toNat = flag := carryFlag_toNat _ _
  exact ⟨(decodeWord_regReg x y 0x4#4).trans (by simp [decodeRegReg]), _, rfl,
    s.setResultAndFlag_advance BitVec.toNat x hsum hcarry⟩

/-- Settles O41: a byte difference and its no-borrow flag, read as integers, written as a result and a flag. -/
theorem subtractWritesDifferenceAndNoBorrow : Obligations.SubtractWritesDifferenceAndNoBorrow := by
  intro x y s diff flag
  have hdiff : ((s.getV x - s.getV y).toNat : Int) = diff := byteSub_toInt _ _
  have hborrow : ((flagByte (noBorrowFlag (s.getV x) (s.getV y))).toNat : Int) = flag := noBorrowFlag_toInt _ _
  exact ⟨(decodeWord_regReg x y 0x5#4).trans (by simp [decodeRegReg]), _, rfl,
    s.setResultAndFlag_advance (fun v => (v.toNat : Int)) x hdiff hborrow⟩

/-- Settles O43: one write of `I`, and zero-extension keeps the value of `NNN`. -/
theorem setIndexWritesNnn : Obligations.SetIndexWritesNnn := by
  intro nnn s
  exact ⟨decodeWord_ldI nnn, (s.setI (zext16 nnn)).advance, rfl, zext16_toNat nnn, pc_add_two s.pc, fun _ _ => rfl,
    fun _ => rfl, ⟨rfl, rfl⟩, ⟨rfl, rfl⟩, ⟨rfl, rfl⟩, ⟨rfl, rfl, rfl⟩, rfl, rfl⟩

end Sys2Proof.Machine
end

section
/-! What an execution can do to the display and the dirty flag, and O28 and O45 (42_display.md R151, R156). -/

namespace Sys2Proof.Machine

/-- A clear in every state: a blank buffer, and the instruction ends. -/
theorem exec_cls (s : State) : exec .cls s = .next (s.setDisplay Display.blank).advance := rfl

/-- A key test that completes is a skip. -/
theorem exec_keyTest_completes {x : Reg} {s : State} (hx : (s.getV x).toNat ≤ 0xF) :
    ∃ k, exec (.skp x) s = .next (s.skipIf (s.keyLevel k)) ∧ exec (.sknp x) s = .next (s.skipIf (!s.keyLevel k)) := by
  rcases keyOf_cases (s.getV x) with ⟨k, -, hk⟩ | ⟨hlarge, -⟩
  · exact ⟨k, exec_skp_key x hk, exec_sknp_key x hk⟩
  · omega

/-- An execution is a clear or a draw and has set the dirty flag, or it has left the display and the flag alone
(10_state.md R30): the instruction's fault writes neither, and of the instructions that complete only the two write the
display. -/
theorem exec_display {i : Instr} {s t : State} (h : exec i s = .next t) :
    ((i = .cls ∨ ∃ x y n, i = .drw x y n) ∧ t.dirty = true) ∨ SameDisplay s t := by
  rcases exec_eq_next h with ⟨_, -, rfl⟩ | ⟨⟨hret, hcall, hdrw, hkey⟩, -⟩
  · exact .inr ⟨rfl, rfl⟩
  cases i with
  | cls =>
    rw [exec_cls] at h
    cases h
    exact .inl ⟨.inl rfl, rfl⟩
  | drw x y n =>
    rw [exec_drw_fits x y (hdrw x y n rfl)] at h
    cases h
    exact .inl ⟨.inr ⟨x, y, n, rfl⟩, rfl⟩
  | ret =>
    rw [exec_ret_live (hret rfl)] at h
    cases h
    exact .inr ⟨rfl, rfl⟩
  | call nnn =>
    rw [exec_call_room nnn (hcall nnn rfl)] at h
    cases h
    exact .inr ⟨rfl, rfl⟩
  | skp x =>
    obtain ⟨k, hskp, -⟩ := exec_keyTest_completes (hkey x (.inl rfl))
    rw [hskp] at h
    cases h
    exact .inr ⟨rfl, rfl⟩
  | sknp x =>
    obtain ⟨k, -, hsknp⟩ := exec_keyTest_completes (hkey x (.inr rfl))
    rw [hsknp] at h
    cases h
    exact .inr ⟨rfl, rfl⟩
  | _ =>
    rw [← Host.Outcome.next.inj h]
    exact .inr (by simp [SameDisplay, rndWith])

/-- Settles O28: the two writers end in a write of the display, which sets the flag; any other execution leaves the flag as it
was. -/
theorem dirtyFlagIsSetAndNeverCleared : Obligations.DirtyFlagIsSetAndNeverCleared := by
  refine ⟨fun s t h => ?_, fun x y n s t hfits h => ?_, fun i s t h hset => ?_⟩
  · rw [exec_cls, Host.Outcome.next.injEq] at h
    rw [← h, State.advance_dirty, State.setDisplay_dirty]
  · rw [exec_drw_fits x y hfits, Host.Outcome.next.injEq] at h
    rw [← h, State.advance_dirty, State.setDisplay_dirty]
  · rcases exec_display h with ⟨-, hdirty⟩ | ⟨-, hdirty⟩
    · exact hdirty
    · rw [hdirty, hset]

/-- Settles O45: the buffer a clear writes is blank at every cell, and it writes nothing else but the flag and `pc`. -/
theorem clearTurnsEveryCellOff : Obligations.ClearTurnsEveryCellOff := by
  intro s
  exact ⟨by decide, _, exec_cls s, Display.cell_blank, rfl, pc_add_two s.pc, fun _ _ => rfl, rfl, fun _ => rfl,
    ⟨rfl, rfl⟩, ⟨rfl, rfl⟩, ⟨rfl, rfl, rfl⟩, rfl, rfl⟩

end Sys2Proof.Machine
end

section
/-! What a timer write leaves, and O51 (43_keys_timers.md R174, R175). -/

namespace Sys2Proof.Machine

/-- The frame of a timer write: all but the timers and `pc` is unchanged, the model's own records included. -/
def SameButTimers (s t : State) : Prop :=
  SameV s t [] ∧ t.i = s.i ∧ SameMem s t ∧ SameStack s t ∧ SameDisplay s t ∧ SameHost s t ∧ SameRecords s t

/-- Writing either timer, or both, and advancing. -/
theorem sameButTimers_advance (s : State) (d t : Byte) :
    SameButTimers s ({ s with dt := d, st := t } : State).advance :=
  ⟨fun _ _ => rfl, rfl, fun _ => rfl, ⟨rfl, rfl⟩, ⟨rfl, rfl⟩, ⟨rfl, rfl, rfl⟩, rfl, rfl⟩

/-- What is left of a state when `DT` takes `b` and the instruction ends. -/
theorem State.setDt_advance (s : State) (b : Byte) :
    (s.setDt b).advance.dt = b ∧ (s.setDt b).advance.st = s.st ∧
      (s.setDt b).advance.pc.toNat = (s.pc.toNat + 2) % 2 ^ 16 ∧ SameButTimers s (s.setDt b).advance :=
  ⟨rfl, rfl, pc_add_two s.pc, sameButTimers_advance s b s.st⟩

/-- What is left of a state when `ST` takes `b` and the instruction ends. -/
theorem State.setSt_advance (s : State) (b : Byte) :
    (s.setSt b).advance.st = b ∧ (s.setSt b).advance.dt = s.dt ∧
      (s.setSt b).advance.pc.toNat = (s.pc.toNat + 2) % 2 ^ 16 ∧ SameButTimers s (s.setSt b).advance :=
  ⟨rfl, rfl, pc_add_two s.pc, sameButTimers_advance s s.dt b⟩

/-- Settles O51: each instruction is one write, of its own timer, with `V[X]`. -/
theorem timerWritesSetTheirTimer : Obligations.TimerWritesSetTheirTimer := by
  intro x s
  exact ⟨(decodeWord_timer x 0x15#8).trans (by simp [decodeTimer]),
    (decodeWord_timer x 0x18#8).trans (by simp [decodeTimer]),
    ⟨_, rfl, s.setDt_advance (s.getV x)⟩, ⟨_, rfl, s.setSt_advance (s.getV x)⟩⟩

end Sys2Proof.Machine
end

section
/-! Ticks, key writes and dirty clears, and O54 and O56 (60_exceptions.md R215, R221, R223). -/

namespace Sys2Proof.Machine

theorem tickTimer_toNat_add_one {t : Byte} (h : t.toNat > 0) : (tickTimer t).toNat + 1 = t.toNat := by
  rw [tickTimer_toNat, Nat.sub_add_cancel h]

theorem tickTimer_of_zero {t : Byte} (h : t.toNat = 0) : tickTimer t = t :=
  if_neg (h ▸ Nat.lt_irrefl 0)

/-- A tick writes the two timers and nothing else. -/
theorem sameButTimers_tick (s : State) : SameButTimers s s.tick :=
  ⟨fun _ _ => rfl, rfl, fun _ => rfl, ⟨rfl, rfl⟩, ⟨rfl, rfl⟩, ⟨rfl, rfl, rfl⟩, rfl, rfl⟩

/-- The second of two writes to a key replaces the first. -/
theorem State.keyWrite_keyWrite (s : State) (k : Key) (first level : Bool) :
    (s.keyWrite k first).keyWrite k level = s.keyWrite k level :=
  congrArg (fun keys => ({ s with keys := keys } : State)) (Vector.set_set first k.isLt)

/-- Settles O54: each timer is lowered by the same rule on its own value, and the rest is the frame of a timer write. -/
theorem tickDecrementsBothTimers : Obligations.TickDecrementsBothTimers := by
  intro s
  obtain ⟨hv, hi, hrest⟩ := sameButTimers_tick s
  exact ⟨tickTimer_toNat_add_one, tickTimer_of_zero, tickTimer_toNat_add_one, tickTimer_of_zero, s.tick_pc, hi, hv, hrest⟩

/-- Settles O56: a key write is read back at its own key only, and with the one written field put back the state is the one
before. -/
theorem keyWriteAndDirtyClearChangeOneThing : Obligations.KeyWriteAndDirtyClearChangeOneThing := by
  intro s k level
  refine ⟨?_, fun j hj => ?_, fun first => s.keyWrite_keyWrite k first level, rfl, s.dirtyClear_dirty, rfl⟩
  · rw [State.keyLevel_keyWrite, if_pos rfl]
  · rw [State.keyLevel_keyWrite, if_neg hj.symm]

end Sys2Proof.Machine
end

section
/-! Decoding and encoding undo each other, the unrecognized space, and O1, O2, O5, O6 and O7 (30_encoding.md R73 to R75,
44_unrecognized.md R193). -/

namespace Sys2Proof.Machine

-- The unrecognized space.

/-- The listed space (R75) is what the decode table leaves over: both are the same tests of the word's fields. -/
theorem unrecognizedWord_iff_noRow (w : Word) : unrecognizedWord w = true ↔ NoRow w := by
  have hw := w.isLt
  simp only [unrecognizedWord, NoRow, Bool.or_eq_true, Bool.and_eq_true, beq_iff_eq, bne_iff_ne, decide_eq_true_eq,
    word_eq_iff, and_F000_toNat, and_000F_toNat, and_00FF_toNat, opField_eq_iff, nField_eq_iff, nnField_eq_iff,
    BitVec.toNat_ofNat, ne_eq]
  omega

theorem decodeWord_eq_unrecognized_iff (w : Word) : decodeWord w = .unrecognized w ↔ NoRow w := by
  constructor
  · exact decodeWord_elim w (P := fun i => i = .unrecognized w → NoRow w)
      (cls := nofun) (ret := nofun) (jp := nofun) (call := nofun) (se := nofun) (sne := nofun) (ldByte := nofun)
      (addByte := nofun) (ldReg := nofun) (orReg := nofun) (andReg := nofun) (xorReg := nofun) (addReg := nofun)
      (subReg := nofun) (ldI := nofun) (rnd := nofun) (drw := nofun) (skp := nofun) (sknp := nofun) (ldVxDt := nofun)
      (ldDtVx := nofun) (ldStVx := nofun) (unrecognized := fun h _ => h)
  · intro h
    exact (decoderIsTheOpcodeTable w).2.2 (noRow_matches_none h)

/-- An unrecognized word decodes to the constructor that carries the word itself. -/
theorem eq_of_decodeWord_unrecognized {w u : Word} (h : decodeWord w = .unrecognized u) : u = w := by
  have hslices := operandsAreFixedSlices w
  rw [h] at hslices
  exact hslices

/-- Settles O5: both sides are the fields' tests of `NoRow`. -/
theorem unrecognizedSpaceIsAsListed : Obligations.UnrecognizedSpaceIsAsListed := by
  intro w
  rw [decodeWord_eq_unrecognized_iff, unrecognizedWord_iff_noRow]

-- Decode after encode.

theorem decodeWord_encode {i : Instr} (h : i.wellFormed = true) : decodeWord (encode i) = i := by
  cases i with
  | cls => decide
  | ret => decide
  | jp nnn => exact decodeWord_jp nnn
  | call nnn => exact decodeWord_call nnn
  | se x nn => exact decodeWord_se x nn
  | sne x nn => exact decodeWord_sne x nn
  | ldByte x nn => exact decodeWord_ldByte x nn
  | addByte x nn => exact decodeWord_addByte x nn
  | ldI nnn => exact decodeWord_ldI nnn
  | rnd x nn => simp [encode, decodeWord]
  | drw x y n => simp [encode, decodeWord]
  | ldReg x y | orReg x y | andReg x y | xorReg x y | addReg x y | subReg x y =>
    simp [encode, decodeWord, decodeRegReg]
  | skp x | sknp x => simp [encode, decodeWord, decodeKeySkip]
  | ldVxDt x | ldDtVx x | ldStVx x => simp [encode, decodeWord, decodeTimer]
  | unrecognized w => exact (unrecognizedSpaceIsAsListed w).2 h

/-- Settles O1: the two bytes make the encoded word again, which decodes to the instruction. -/
theorem decodeOfEncodeIsIdentity : Obligations.DecodeOfEncodeIsIdentity := by
  intro i rest h
  show Decoded.instr (decodeWord (wordOfBytes (hiByte (encode i)) (loByte (encode i)))) rest = _
  rw [wordOfBytes_bytes, decodeWord_encode h]

-- Encode after decode: a word is put together from the fields that its row selects it by.

theorem formatA_of_opField {w : Word} {op : Nibble} (h : opField w = op) : formatA op (nnnField w) = w := by
  rw [← h, formatA_fields]

theorem formatB_of_opField {w : Word} {op : Nibble} (h : opField w = op) :
    formatB op (xField w) (nnField w) = w := by
  rw [← h, formatB_fields]

theorem formatB_of_fields {w : Word} {op : Nibble} {nn : Byte} (h : opField w = op) (hnn : nnField w = nn) :
    formatB op (xField w) nn = w := by
  rw [← hnn, formatB_of_opField h]

theorem formatC_of_fields {w : Word} {op n : Nibble} (h : opField w = op) (hn : nField w = n) :
    formatC op (xField w) (yField w) n = w := by
  rw [← h, ← hn, formatC_fields]

theorem encode_decodeWord (w : Word) : encode (decodeWord w) = w :=
  decodeWord_elim w (P := fun i => encode i = w)
    (cls := Eq.symm) (ret := Eq.symm) (jp := formatA_of_opField) (call := formatA_of_opField) (ldI := formatA_of_opField)
    (se := formatB_of_opField) (sne := formatB_of_opField) (ldByte := formatB_of_opField) (addByte := formatB_of_opField)
    (rnd := formatB_of_opField) (ldReg := formatC_of_fields) (orReg := formatC_of_fields) (andReg := formatC_of_fields)
    (xorReg := formatC_of_fields) (addReg := formatC_of_fields) (subReg := formatC_of_fields)
    (drw := fun h => formatC_of_fields h rfl) (skp := formatB_of_fields) (sknp := formatB_of_fields)
    (ldVxDt := formatB_of_fields) (ldDtVx := formatB_of_fields) (ldStVx := formatB_of_fields) (unrecognized := fun _ => rfl)

theorem wellFormed_decodeWord (w : Word) : (decodeWord w).wellFormed = true :=
  decodeWord_elim w (P := fun i => i.wellFormed = true)
    (cls := fun _ => rfl) (ret := fun _ => rfl) (jp := fun _ => rfl) (call := fun _ => rfl) (ldI := fun _ => rfl)
    (se := fun _ => rfl) (sne := fun _ => rfl) (ldByte := fun _ => rfl) (addByte := fun _ => rfl) (rnd := fun _ => rfl)
    (ldReg := fun _ _ => rfl) (orReg := fun _ _ => rfl) (andReg := fun _ _ => rfl) (xorReg := fun _ _ => rfl)
    (addReg := fun _ _ => rfl) (subReg := fun _ _ => rfl) (drw := fun _ => rfl) (skp := fun _ _ => rfl)
    (sknp := fun _ _ => rfl) (ldVxDt := fun _ _ => rfl) (ldDtVx := fun _ _ => rfl) (ldStVx := fun _ _ => rfl)
    (unrecognized := (unrecognizedWord_iff_noRow w).2)

/-- Settles O2: row by row, the fields that select the row and the operands are the whole word. -/
theorem encodeOfDecodeIsIdentity : Obligations.EncodeOfDecodeIsIdentity :=
  fun w => ⟨encode_decodeWord w, wellFormed_decodeWord w⟩

-- Steps at an unrecognized word.

theorem step_of_noRow {s : State} (hclear : s.fault = none) (hfetch : s.fetchable = true) (h : NoRow s.fetchWord) :
    step s = .next { s with pc := s.pc + 2#16, diags := { pc := s.pc, word := s.fetchWord } :: s.diags } := by
  rw [step_of_fetchable hclear hfetch, (decodeWord_eq_unrecognized_iff _).2 h]
  rfl

/-- Settles O6: each of the thirteen patterns lies in what the decode table leaves over. -/
theorem otherChip8WordsAreUnrecognized : Obligations.OtherChip8WordsAreUnrecognized := by
  intro w hw
  have hnoRow : NoRow w := by
    have := w.isLt
    simp only [word_eq_iff, and_F000_toNat, and_F00F_toNat, and_F0FF_toNat, BitVec.toNat_ofNat, ne_eq] at hw
    simp only [NoRow, opField_eq_iff, nField_eq_iff, nnField_eq_iff, word_eq_iff, BitVec.toNat_ofNat, ne_eq]
    omega
  refine ⟨(decodeWord_eq_unrecognized_iff w).2 hnoRow, fun s hclear hfetch hword => ?_⟩
  subst hword
  exact step_of_noRow hclear hfetch hnoRow

/-- Settles O7, by evaluating the decoder on each of the nine words. -/
theorem sampleWordsDecode : Obligations.SampleWordsDecode := by
  unfold Obligations.SampleWordsDecode
  decide

/-- Settles O52: executing the word is the diagnostic and the advance, and a word of the listed space decodes to it. -/
theorem unrecognizedWordOnlyAdvances : Obligations.UnrecognizedWordOnlyAdvances := by
  refine ⟨fun w s => ?_, fun s hclear hfetch hword => ?_⟩
  · exact ⟨(s.emitDiag w).advance, rfl, pc_add_two s.pc, rfl, rfl, registerFrame_setPc (s.emitDiag w) _⟩
  · exact step_of_noRow hclear hfetch ((unrecognizedWord_iff_noRow _).1 hword)

end Sys2Proof.Machine
end

section
/-! What an execution does, said once over the shapes of its effect, and O14, O26 and O27 (10_state.md R20 to R30,
20_memory.md R52). -/

namespace Sys2Proof.Machine

/-- The destination register of the instructions that write one register and advance. -/
def destination : Instr → Option Reg
  | .ldByte x _ | .addByte x _ | .ldReg x _ | .orReg x _ | .andReg x _ | .xorReg x _ | .ldVxDt x => some x
  | _ => none

/-- The state an execution leaves, by the shape of its effect; what is written is free where no invariant needs it. -/
inductive Effect (s : State) : Instr → State → Prop
  | fault {i : Instr} {r : FaultRecord} (h : FaultsWith i s r) : Effect s i { s with fault := some r }
  | cls : Effect s .cls (s.setDisplay Display.blank).advance
  | ret (live : 0 < s.sp.val) : Effect s .ret (s.drop.setPc (s.top live + 2#16))
  | jp (nnn : Addr12) : Effect s (.jp nnn) (s.setPc (zext16 nnn))
  | call (nnn : Addr12) (room : s.sp.val < stackDepth) : Effect s (.call nnn) ((s.push s.pc room).setPc (zext16 nnn))
  | skip {i : Instr} (taken : Bool) : Effect s i (s.skipIf taken)
  | write {i : Instr} (x : Reg) (b : Byte) (h : destination i = some x) : Effect s i (s.setV x b).advance
  | add (x y : Reg) (b : Byte) (flag : Bool) : Effect s (.addReg x y) (s.setResultAndFlag x b flag).advance
  | sub (x y : Reg) (b : Byte) (flag : Bool) : Effect s (.subReg x y) (s.setResultAndFlag x b flag).advance
  | ldI (nnn : Addr12) : Effect s (.ldI nnn) (s.setI (zext16 nnn)).advance
  | rnd (x : Reg) (nn b : Byte) : Effect s (.rnd x nn) (s.setV x b).advance.drawNext
  | drw (x y : Reg) (n : Nibble) (hit : Bool) (d : Display) :
    Effect s (.drw x y n) ((s.setFlag hit).setDisplay d).advance
  | ldDtVx (x : Reg) (b : Byte) : Effect s (.ldDtVx x) (s.setDt b).advance
  | ldStVx (x : Reg) (b : Byte) : Effect s (.ldStVx x) (s.setSt b).advance
  | unrecognized (w : Word) : Effect s (.unrecognized w) (s.emitDiag w).advance

theorem State.sp_eq_of_full (s : State) (full : ¬ s.sp.val < stackDepth) : s.sp.val = 16 :=
  Nat.le_antisymm (Nat.le_of_lt_succ s.sp.isLt) (Nat.le_of_not_lt full)

/-- Every execution answers a next state, and leaves one of the effects: the branches of the five instructions that can
fault are told apart, the others have one each. -/
theorem exec_effect (i : Instr) (s : State) : ∃ t, exec i s = .next t ∧ Effect s i t := by
  cases i with
  | cls => exact ⟨_, rfl, .cls⟩
  | ret =>
    by_cases live : 0 < s.sp.val
    · exact ⟨_, exec_ret_live live, .ret live⟩
    · have hempty : s.sp.val = 0 := by omega
      exact ⟨_, exec_ret_empty hempty, .fault (.inl ⟨rfl, hempty, rfl⟩)⟩
  | jp nnn => exact ⟨_, rfl, .jp nnn⟩
  | call nnn =>
    by_cases room : s.sp.val < stackDepth
    · exact ⟨_, exec_call_room nnn room, .call nnn room⟩
    · have hfull := s.sp_eq_of_full room
      exact ⟨_, exec_call_full nnn hfull, .fault (.inr (.inl ⟨nnn, rfl, hfull, rfl⟩))⟩
  | se x nn | sne x nn => exact ⟨_, rfl, .skip _⟩
  | ldByte x nn | addByte x nn | ldReg x y | orReg x y | andReg x y | xorReg x y | ldVxDt x =>
    exact ⟨_, rfl, .write _ _ rfl⟩
  | addReg x y => exact ⟨_, rfl, .add x y _ _⟩
  | subReg x y => exact ⟨_, rfl, .sub x y _ _⟩
  | ldI nnn => exact ⟨_, rfl, .ldI nnn⟩
  | rnd x nn => exact ⟨_, rfl, .rnd x nn _⟩
  | drw x y n =>
    by_cases hfits : s.SpriteFits n.toNat
    · exact ⟨_, exec_drw_fits x y hfits, .drw x y n _ _⟩
    · exact ⟨_, exec_drw_outside x y hfits, .fault (.inr (.inr (.inl ⟨x, y, n, rfl, hfits, rfl⟩)))⟩
  | skp x =>
    rcases keyOf_cases (s.getV x) with ⟨k, -, hkey⟩ | ⟨hlarge, hnone⟩
    · exact ⟨_, exec_skp_key x hkey, .skip _⟩
    · exact ⟨_, exec_skp_noKey x hnone, .fault (.inr (.inr (.inr ⟨x, .inl rfl, hlarge, rfl⟩)))⟩
  | sknp x =>
    rcases keyOf_cases (s.getV x) with ⟨k, -, hkey⟩ | ⟨hlarge, hnone⟩
    · exact ⟨_, exec_sknp_key x hkey, .skip _⟩
    · exact ⟨_, exec_sknp_noKey x hnone, .fault (.inr (.inr (.inr ⟨x, .inr rfl, hlarge, rfl⟩)))⟩
  | ldDtVx x => exact ⟨_, rfl, .ldDtVx x _⟩
  | ldStVx x => exact ⟨_, rfl, .ldStVx x _⟩
  | unrecognized w => exact ⟨_, rfl, .unrecognized w⟩

theorem effect_of_exec {i : Instr} {s t : State} (h : exec i s = .next t) : Effect s i t := by
  obtain ⟨t', h', heffect⟩ := exec_effect i s
  rw [h, Host.Outcome.next.injEq] at h'
  rwa [h']

/-- Settles O14: a step of a block that is not faulted raises a fetch fault or executes an instruction, and both answer a next
state. -/
theorem executionNeverStops : Obligations.ExecutionNeverStops := by
  have hexec : ∀ (i : Instr) (s : State), ∃ t, exec i s = .next t := fun i s =>
    let ⟨t, h, _⟩ := exec_effect i s
    ⟨t, h⟩
  refine ⟨hexec, fun s hclear => ?_⟩
  rw [step_of_clear hclear]
  cases s.fetch with
  | stop code addr => exact ⟨_, rfl⟩
  | word w => exact hexec (decodeWord w) s

/-- Settles O26: of each effect, the pieces it writes belong to its instruction, and the rest reads as before. -/
theorem writersOfEachPieceOfState : Obligations.WritersOfEachPieceOfState := by
  intro i s t h
  cases effect_of_exec h <;> simp

/-- Settles O27: a register differs only where the effect wrote it. -/
theorem registerWritersAreAsListed : Obligations.RegisterWritersAreAsListed := by
  intro i s t r h hne
  cases effect_of_exec h with
  | write x b hdest =>
    have hr : r = x := by
      by_contra hr
      exact hne (s.getV_setV_ne b (Ne.symm hr))
    subst hr
    cases i <;> cases hdest <;> rfl
  | rnd x nn b =>
    by_contra hr
    exact hne (s.getV_setV_ne b (Ne.symm hr))
  | add x y b flag | sub x y b flag =>
    by_contra hr
    obtain ⟨hx, hf⟩ := not_or.1 hr
    exact hne (s.getV_setResultAndFlag_ne b flag (Ne.symm hx) (Ne.symm hf))
  | drw x y n hit d =>
    by_contra hr
    exact hne (s.getV_setFlag_ne hit hr)
  | _ => exact absurd rfl hne

end Sys2Proof.Machine
end

section
/-! The step's checks and the placed word, and O10, O12, O13, O19 and O20 (20_memory.md R54, R55; 60_exceptions.md R202,
R204). -/

namespace Sys2Proof.Machine

-- The two fetch faults.

theorem step_of_odd {s : State} (hclear : s.fault = none) (hodd : s.pc.toNat % 2 = 1) :
    step s = .next { s with fault := some { code := .misalignedFetch, pc := s.pc, word := none, addr := none } } := by
  rw [step_of_clear hclear]
  rcases s.fetch_cases with ⟨-, hfetch⟩ | ⟨heven, -⟩ | ⟨heven, -⟩
  · rw [hfetch]; rfl
  · omega
  · omega

theorem step_of_outside {s : State} (hclear : s.fault = none) (heven : s.pc.toNat % 2 = 0) (hout : 0xFFE < s.pc.toNat) :
    step s = .next { s with
      fault := some { code := .fetchOutOfRange, pc := s.pc, word := none, addr := some (s.pc.toNat + 1) } } := by
  rw [step_of_clear hclear]
  rcases s.fetch_cases with ⟨hodd, -⟩ | ⟨-, -, hfetch⟩ | ⟨-, hin, -⟩
  · omega
  · rw [hfetch]; rfl
  · omega

/-- Settles O10: the first two bytes of the list are the fetched word. -/
theorem stepRunsTheDecodedInstruction : Obligations.StepRunsTheDecodedInstruction := by
  intro s i rest hclear heven hin hdecode
  have hi : decodeWord s.fetchWord = i := by
    rw [decodeBytes, Decoded.instr.injEq] at hdecode
    exact hdecode.1
  rw [step_of_fetchable hclear (s.fetchable_iff.2 ⟨heven, by omega⟩), hi]

/-- Settles O12: the two checks of the fetch. -/
theorem fetchChecksItsAddress : Obligations.FetchChecksItsAddress := by
  intro s hclear
  exact ⟨fun hodd => step_of_odd hclear (Nat.mod_two_ne_zero.1 hodd),
    fun heven hout => step_of_outside hclear heven (by omega)⟩

/-- Settles O19: a recorded fault stops the step before the fetch, and the fetch tests parity before the range. -/
theorem faultPriority : Obligations.FaultPriority := by
  intro s
  refine ⟨fun r hfault => step_of_faulted hfault, fun hclear hpc => ?_, fun hclear hodd => ?_,
    fun hclear heven hout => ?_⟩
  · rw [step_of_odd hclear (by rw [hpc]; rfl), hpc]
  · exact ⟨_, step_of_odd hclear hodd, rfl⟩
  · exact ⟨_, step_of_outside hclear heven hout, rfl⟩

-- A faulted block, and the block after a step.

/-- What holds of the states a step answers, and of the state itself where the step stops, holds after the step. -/
theorem State.afterStep_elim {P : State → Prop} (s : State) (hnext : ∀ t, step s = .next t → P t) (hsame : P s) :
    P s.afterStep := by
  unfold State.afterStep
  cases hstep : step s with
  | next t => exact hnext t hstep
  | fault code => exact hsame
  | refused why => exact hsame

theorem State.load_eq_some {s t : State} {bytes : List Byte} :
    s.load bytes = some t ↔
      bytes.length ≤ romMax ∧ t = { s with mem := s.mem.writeBytes progBase bytes } := by
  unfold State.load
  by_cases hlen : bytes.length ≤ romMax
  · rw [if_pos hlen, Option.some.injEq, eq_comm, and_iff_right hlen]
  · rw [if_neg hlen, iff_false_left (by simp), not_and]
    exact fun h => absurd h hlen

/-- Settles O20: the step stops at the recorded fault, and of the host's operations only the reset writes the fault status. -/
theorem faultedBlockIsStuckUntilReset : Obligations.FaultedBlockIsStuckUntilReset := by
  intro s r hfault
  have hstep : step s = .fault r.code := step_of_faulted hfault
  refine ⟨hstep, by rw [State.afterStep, hstep], by rw [stepOutput, hstep], hfault, tickTimer_toNat s.dt,
    tickTimer_toNat s.st, fun k level => ⟨hfault, ?_⟩, fun bytes t hload => ?_, hfault, rfl, rfl⟩
  · rw [State.keyLevel_keyWrite, if_pos rfl]
  · rw [(State.load_eq_some.1 hload).2, hfault]

-- The placed word.

/-- Where `withFetchWord` places its word: at `pc` where that can be fetched from, else at `PROG_BASE`. -/
def placeOf (s : State) : Nat := if s.fetchable then s.pc.toNat else progBase

theorem placeOf_bounds (s : State) : placeOf s % 2 = 0 ∧ placeOf s ≤ 0xFFE := by
  unfold placeOf
  by_cases hfetch : s.fetchable = true
  · rw [if_pos hfetch]
    exact s.fetchable_iff.1 hfetch
  · rw [if_neg hfetch]
    decide

theorem withFetchWord_pc_toNat (s : State) (nbits w : Nat) : (s.withFetchWord nbits w).pc.toNat = placeOf s := by
  have := (placeOf_bounds s).2
  show (BitVec.ofNat 16 (placeOf s)).toNat = placeOf s
  rw [BitVec.toNat_ofNat]
  omega

theorem withFetchWord_fetchable (s : State) (nbits w : Nat) : (s.withFetchWord nbits w).fetchable = true := by
  rw [State.fetchable_iff, withFetchWord_pc_toNat]
  exact placeOf_bounds s

/-- Both placed bytes read back, the second write being at another address than the first. -/
theorem withFetchWord_fetchWord {s : State} (hwf : s.mem.wf = true) (nbits w : Nat) :
    (s.withFetchWord nbits w).fetchWord = tableWord nbits w := by
  have hbound : placeOf s ≤ addrMax := Nat.le_trans (placeOf_bounds s).2 (by decide)
  have hmem : (s.withFetchWord nbits w).mem =
      (s.mem.write (placeOf s) (hiByte (tableWord nbits w))).write (placeOf s + 1) (loByte (tableWord nbits w)) := rfl
  have hwf' := Memory.wf_write hwf (hiByte (tableWord nbits w)) hbound
  rw [State.fetchWord, withFetchWord_pc_toNat, hmem, Memory.read_write hwf', Memory.read_write hwf', Memory.read_write hwf,
    if_neg (Nat.ne_of_lt (Nat.lt_succ_self _)), if_pos rfl, if_pos rfl, wordOfBytes_bytes]

/-- Settles O13: the placed state can be fetched from, and its fetch gives the placed word. -/
theorem stepRunsThePlacedWord : Obligations.StepRunsThePlacedWord := by
  intro s nbits w hwf
  rw [step_of_fetchable rfl (withFetchWord_fetchable s nbits w), withFetchWord_fetchWord hwf]
  rfl

end Sys2Proof.Machine
end

section
/-! When a step raises a fault, which, and what it answers, and O15 to O18, O21 and O48 (60_exceptions.md R200 to R203,
70_reset_and_hazards.md R253). -/

namespace Sys2Proof.Machine

-- Key indices.

theorem keyOf_of_val_eq {b : Byte} {k : Key} (hk : k.val = b.toNat) : keyOf b = some k := by
  rcases keyOf_cases b with ⟨j, hj, hkey⟩ | ⟨hlarge, -⟩
  · rwa [Fin.ext (hk.trans hj.symm)]
  · have := k.isLt
    omega

theorem keyOf_eq_none {b : Byte} (h : 0xF < b.toNat) : keyOf b = none := by
  rcases keyOf_cases b with ⟨k, hk, -⟩ | ⟨-, hnone⟩
  · have := k.isLt
    omega
  · exact hnone

-- An instruction's fault.

/-- An instruction whose fault condition holds raises that fault. -/
theorem exec_of_faultsWith {i : Instr} {s : State} {r : FaultRecord} (h : FaultsWith i s r) :
    exec i s = .next { s with fault := some r } := by
  rcases h with ⟨rfl, hempty, rfl⟩ | ⟨nnn, rfl, hfull, rfl⟩ | ⟨x, y, n, rfl, hfits, rfl⟩ | ⟨x, hi, hlarge, rfl⟩
  · exact exec_ret_empty hempty
  · exact exec_call_full nnn hfull
  · exact exec_drw_outside x y hfits
  · have hnone := keyOf_eq_none hlarge
    rcases hi with rfl | rfl
    · exact exec_skp_noKey x hnone
    · exact exec_sknp_noKey x hnone

theorem not_completes_of_faultsWith {i : Instr} {s : State} {r : FaultRecord} (h : FaultsWith i s r) :
    ¬ Completes i s := by
  rintro ⟨hret, hcall, hdrw, hkey⟩
  rcases h with ⟨hi, hempty, -⟩ | ⟨nnn, hi, hfull, -⟩ | ⟨x, y, n, hi, hfits, -⟩ | ⟨x, hi, hlarge, -⟩
  · have := hret hi
    omega
  · have := hcall nnn hi
    omega
  · exact hfits (hdrw x y n hi)
  · have := hkey x hi
    omega

/-- In a block that is not faulted, an execution ends without a fault exactly when no fault condition holds. -/
theorem exec_ends_clear_iff {i : Instr} {s : State} (hclear : s.fault = none) :
    (∃ t, exec i s = .next t ∧ t.fault = none) ↔ Completes i s := by
  constructor
  · rintro ⟨t, h, hnone⟩
    rcases exec_eq_next h with ⟨r, -, rfl⟩ | ⟨hcompletes, -⟩
    · cases hnone
    · exact hcompletes
  · intro hcompletes
    obtain ⟨t, h, -⟩ := exec_effect i s
    refine ⟨t, h, ?_⟩
    rcases exec_eq_next h with ⟨r, hfaults, -⟩ | ⟨-, hsame⟩
    · exact absurd hcompletes (not_completes_of_faultsWith hfaults)
    · rw [hsame, hclear]

-- A step's fault.

/-- The fault a step raises, with its condition and its record: one of the fetch, or of the instruction at `pc`. -/
def StepFaultsWith (s : State) (r : FaultRecord) : Prop :=
  (s.pc.toNat % 2 = 1 ∧ r = ⟨.misalignedFetch, s.pc, none, none⟩) ∨
  (s.pc.toNat % 2 = 0 ∧ 0xFFF < s.pc.toNat + 1 ∧ r = ⟨.fetchOutOfRange, s.pc, none, some (s.pc.toNat + 1)⟩) ∨
  (s.pc.toNat % 2 = 0 ∧ s.pc.toNat ≤ 0xFFE ∧ FaultsWith (decodeWord s.fetchWord) s r)

theorem step_of_stepFaultsWith {s : State} {r : FaultRecord} (hclear : s.fault = none) (h : StepFaultsWith s r) :
    step s = .next { s with fault := some r } := by
  rcases h with ⟨hodd, rfl⟩ | ⟨heven, hout, rfl⟩ | ⟨heven, hin, hfaults⟩
  · exact step_of_odd hclear hodd
  · exact step_of_outside hclear heven (by omega)
  · rw [step_of_fetchable hclear (s.fetchable_iff.2 ⟨heven, hin⟩), exec_of_faultsWith hfaults]

/-- A step that leaves a fault record found the block clear, raised that fault, and wrote nothing else. -/
theorem stepFaultsWith_of_step {s t : State} {r : FaultRecord} (h : step s = .next t) (hr : t.fault = some r) :
    s.fault = none ∧ StepFaultsWith s r ∧ t = { s with fault := some r } := by
  obtain ⟨hclear, ⟨hodd, rfl⟩ | ⟨heven, hout, rfl⟩ | ⟨heven, hin, hexec⟩⟩ := step_eq_next h
  · cases hr
    exact ⟨hclear, .inl ⟨hodd, rfl⟩, rfl⟩
  · cases hr
    exact ⟨hclear, .inr (.inl ⟨heven, hout, rfl⟩), rfl⟩
  · rcases exec_eq_next hexec with ⟨r', hfaults, rfl⟩ | ⟨-, hsame⟩
    · cases hr
      exact ⟨hclear, .inr (.inr ⟨heven, hin, hfaults⟩), rfl⟩
    · rw [hsame, hclear] at hr
      cases hr

theorem FaultsWith.pc_eq {i : Instr} {s : State} {r : FaultRecord} (h : FaultsWith i s r) : r.pc = s.pc := by
  rcases h with ⟨-, -, rfl⟩ | ⟨-, -, -, rfl⟩ | ⟨-, -, -, -, -, rfl⟩ | ⟨-, -, -, rfl⟩ <;> rfl

theorem StepFaultsWith.pc_eq {s : State} {r : FaultRecord} (h : StepFaultsWith s r) : r.pc = s.pc := by
  rcases h with ⟨-, rfl⟩ | ⟨-, -, rfl⟩ | ⟨-, -, hfaults⟩
  · rfl
  · rfl
  · exact hfaults.pc_eq

theorem stepOutput_of_raised {s t : State} {r : FaultRecord} (h : step s = .next t) (hr : t.fault = some r) :
    stepOutput s = .faulted r.code := by
  simp only [stepOutput, h, hr]

/-- Settles O16: what a raising step leaves, where its record points, and what `STEP` reads from the record. -/
theorem faultsArePrecise : Obligations.FaultsArePrecise := by
  intro s t r h hr
  obtain ⟨-, hfaults, ht⟩ := stepFaultsWith_of_step h hr
  exact ⟨ht, hfaults.pc_eq, stepOutput_of_raised h hr⟩

theorem nField_of_decodeWord_drw {w : Word} {x y : Reg} {n : Nibble} (h : decodeWord w = .drw x y n) : n = nField w := by
  obtain ⟨-, -, -, hn, -⟩ := decodeWord_faulting w
  exact BitVec.eq_of_toNat_eq (by rw [hn x y n h, nField_toNat])

/-- Settles O17: the condition of each fault, its instruction read back from the bits of the word it was decoded from. -/
theorem faultRecordTellsItsCause : Obligations.FaultRecordTellsItsCause := by
  intro s t r h hr
  obtain ⟨-, hfaults, -⟩ := stepFaultsWith_of_step h hr
  obtain ⟨hret, hcall, hdrw, -, hkey, hkeyX⟩ := decodeWord_faulting s.fetchWord
  have hword := encode_decodeWord s.fetchWord
  rcases hfaults with ⟨hodd, rfl⟩ | ⟨heven, hout, rfl⟩ |
    ⟨-, -, ⟨hi, hempty, rfl⟩ | ⟨nnn, hi, hfull, rfl⟩ | ⟨x, y, n, hi, hfits, rfl⟩ | ⟨x, hi, hlarge, rfl⟩⟩
  · exact ⟨rfl, hodd, rfl⟩
  · exact ⟨rfl, heven, hout, rfl⟩
  · exact ⟨rfl, hret.1 hi, hempty, by rw [hword]⟩
  · exact ⟨rfl, hcall.1 ⟨nnn, hi⟩, hfull, by rw [hword]⟩
  · obtain rfl := nField_of_decodeWord_drw hi
    rw [nField_toNat] at hfits
    exact ⟨rfl, hdrw.1 ⟨x, y, hi⟩, hfits, by rw [hword, nField_toNat]⟩
  · obtain rfl := hkeyX x hi
    exact ⟨rfl, hkey.1 ⟨_, hi⟩, hlarge, by rw [hword]⟩

/-- Settles O21: a fault's condition and record read nothing but memory, registers, `I`, `pc`, `sp` and the parameters, none of
which is among the fields set here. -/
theorem reexecutionRaisesTheSameFault : Obligations.ReexecutionRaisesTheSameFault := by
  intro s t r dt st keys dirty draws h hr
  obtain ⟨-, hfaults, rfl⟩ := stepFaultsWith_of_step h hr
  exact step_of_stepFaultsWith (s := { s with fault := none, dt, st, keys, dirty, draws }) rfl hfaults

-- A step without a fault.

/-- No fault condition of the decoded instruction holds exactly when the duties of R253 are kept, told by the word's bits. -/
theorem completes_decodeWord_iff (s : State) (w : Word) :
    Completes (decodeWord w) s ↔
      (w = 0x00EE#16 → 0 < s.sp.val) ∧ (w &&& 0xF000#16 = 0x2000#16 → s.sp.val < 16) ∧
      (w &&& 0xF000#16 = 0xD000#16 → s.SpriteFits (w &&& 0x000F#16).toNat) ∧
      (w &&& 0xF0FF#16 = 0xE09E#16 ∨ w &&& 0xF0FF#16 = 0xE0A1#16 → (s.getV (xField w)).toNat ≤ 0xF) := by
  obtain ⟨hret, hcall, hdrw, -, hkey, hkeyX⟩ := decodeWord_faulting w
  rw [← hret, ← hcall, ← hdrw, ← hkey, and_000F_toNat, Completes]
  refine and_congr Iff.rfl (and_congr ?_ (and_congr ?_ ?_))
  · rw [forall_exists_index]
  · constructor
    · rintro h ⟨x, y, hi⟩
      rw [← nField_toNat]
      exact h x y _ hi
    · intro h x y n hi
      obtain rfl := nField_of_decodeWord_drw hi
      rw [nField_toNat]
      exact h ⟨x, y, hi⟩
  · constructor
    · rintro h ⟨x, hi⟩
      rw [← hkeyX x hi]
      exact h x hi
    · intro h x hi
      rw [hkeyX x hi]
      exact h ⟨x, hi⟩

/-- Settles O18: the fetch must pass both of its checks, and then the execution must complete. -/
theorem stepFaultsExactlyWhenUnsafe : Obligations.StepFaultsExactlyWhenUnsafe := by
  intro s hclear
  rw [State.StepSafe, ← completes_decodeWord_iff, ← exec_ends_clear_iff hclear]
  constructor
  · rintro ⟨t, h, hnone⟩
    obtain ⟨-, ⟨-, rfl⟩ | ⟨-, -, rfl⟩ | ⟨heven, hin, hexec⟩⟩ := step_eq_next h
    · cases hnone
    · cases hnone
    · exact ⟨heven, hin, t, hexec, hnone⟩
  · rintro ⟨heven, hin, hexec⟩
    rwa [step_of_fetchable hclear (s.fetchable_iff.2 ⟨heven, hin⟩)]

-- What a step returns.

/-- An execution emits a diagnostic exactly for an unrecognized word. -/
theorem exec_diags {i : Instr} {s t : State} (h : exec i s = .next t) :
    (∃ w, i = .unrecognized w ∧ t.diags = { pc := s.pc, word := w } :: s.diags) ∨
      ((∀ w, i ≠ .unrecognized w) ∧ t.diags = s.diags) := by
  obtain ⟨-, -, -, -, -, -, -, -, -, -, hdiags⟩ := writersOfEachPieceOfState i s t h
  by_cases hi : ∃ w, i = .unrecognized w
  · obtain ⟨w, rfl⟩ := hi
    cases h
    exact .inl ⟨w, rfl, rfl⟩
  · exact .inr ⟨not_exists.1 hi, by_contra fun hne => hi (hdiags hne)⟩

theorem stepOutput_of_diag {s t : State} {d : Diag} (h : step s = .next t) (hnone : t.fault = none)
    (hdiags : t.diags = d :: s.diags) : stepOutput s = .okDiag d := by
  simp only [stepOutput, h, hnone, hdiags, if_true]

theorem stepOutput_of_noDiag {s t : State} (h : step s = .next t) (hnone : t.fault = none)
    (hdiags : t.diags = s.diags) : stepOutput s = .ok := by
  simp only [stepOutput, h, hnone, hdiags]
  cases s.diags with
  | nil => rfl
  | cons d ds => exact if_neg (List.cons_ne_self d ds).symm

/-- Settles O15: a raised fault is returned by its code, and a step without one has executed the fetched word, which leaves one
new diagnostic or none. -/
theorem stepOutputIsOkDiagOrFault : Obligations.StepOutputIsOkDiagOrFault := by
  intro s t h
  refine ⟨fun r hr => stepOutput_of_raised h hr, fun hnone => ?_⟩
  obtain ⟨-, ⟨-, rfl⟩ | ⟨-, -, rfl⟩ | ⟨-, -, hexec⟩⟩ := step_eq_next h
  · cases hnone
  · cases hnone
  · rcases exec_diags hexec with ⟨w, hi, hdiags⟩ | ⟨hi, hdiags⟩
    · rw [hi]
      exact stepOutput_of_diag h hnone hdiags
    · split
      · next w hw => exact absurd hw (hi w)
      · exact stepOutput_of_noDiag h hnone hdiags

/-- Settles O48: the branch of a draw that does not fit, and the two bounds as inequalities. -/
theorem drawOutOfRangeFaults : Obligations.DrawOutOfRangeFaults := by
  refine ⟨fun x y n s hfits => exec_drw_outside x y hfits, fun base h => ?_⟩
  simp only [spriteOutOfRange, Bool.and_eq_true, Bool.not_eq_true', Bool.and_eq_false_iff, Bool.not_eq_false',
    decide_eq_true_eq, decide_eq_false_iff_not, inMemory, addrMax]
  omega

end Sys2Proof.Machine
end

section
/-! The invariant of a running block, and O9, O22 and O23 (10_state.md R23 to R26, 60_exceptions.md R203). -/

namespace Sys2Proof.Machine

/-- In a block that is not faulted the invariant speaks of memory, `I`, `pc` and the stack. -/
theorem inv_of_running {t : State} (hwf : t.mem.wf = true) (hi : t.i.toNat ≤ 0xFFF) (hpc : t.pc.toNat ≤ 0x1002)
    (hlive : t.StackOk) (hclear : t.fault = none) : t.Inv :=
  ⟨hwf, hi, hpc, hlive, fun r hr => by rw [hclear] at hr; cases hr⟩

/-- Nothing of the invariant but `pc` and the fault status has moved: the bound of the new `pc` is what is left to show. -/
theorem State.Inv.of_samePieces {s t : State} (h : s.Inv) (hmem : t.mem = s.mem) (hi : t.i = s.i)
    (hstack : t.stack = s.stack) (hsp : t.sp = s.sp) (hpc : t.pc.toNat ≤ 0x1002) (hclear : t.fault = none) : t.Inv := by
  obtain ⟨hwf, hbound, -, hlive, -⟩ := h
  refine inv_of_running (hmem ▸ hwf) (hi ▸ hbound) hpc ?_ hclear
  unfold State.StackOk
  rw [hstack, hsp]
  exact hlive

/-- The invariant at reset, whatever the parameters and the count of draws. -/
theorem inv_resetWith (c : Config) (draws : Nat) : ({ State.resetWith c with draws := draws } : State).Inv :=
  inv_of_running rfl (by decide : (0#16 : Word).toNat ≤ 0xFFF) (by decide : (0x200#16 : Word).toNat ≤ 0x1002)
    (fun _ hk => absurd hk (Nat.not_lt_zero _)) rfl

/-- Settles O9: the base case is the same for all parameters. -/
theorem invariantAtReset : Obligations.InvariantAtReset :=
  ⟨inv_resetWith defaultConfig 0, fun c => inv_resetWith c 0⟩

-- A record raised.

theorem FaultsWith.ok {i : Instr} {s : State} {r : FaultRecord} (h : FaultsWith i s r) : r.Ok s.pc := by
  rcases h with ⟨-, -, rfl⟩ | ⟨-, -, -, rfl⟩ | ⟨-, -, -, -, -, rfl⟩ | ⟨-, -, -, rfl⟩ <;>
    exact ⟨rfl, by simp, by simp⟩

theorem StepFaultsWith.ok {s : State} {r : FaultRecord} (h : StepFaultsWith s r) : r.Ok s.pc := by
  rcases h with ⟨-, rfl⟩ | ⟨-, -, rfl⟩ | ⟨-, -, hfaults⟩
  · exact ⟨rfl, by simp, by simp⟩
  · exact ⟨rfl, by simp, by simp⟩
  · exact hfaults.ok

theorem State.Inv.raise {s : State} {r : FaultRecord} (h : s.Inv) (hr : r.Ok s.pc) :
    ({ s with fault := some r } : State).Inv := by
  obtain ⟨hwf, hbound, hpc, hlive, -⟩ := h
  exact ⟨hwf, hbound, hpc, hlive, fun r' hr' => by cases hr'; exact hr⟩

-- The stack.

theorem State.StackOk.push {s : State} (h : s.StackOk) {w : Word} (room : s.sp.val < stackDepth) (heven : w.toNat % 2 = 0)
    (hin : w.toNat ≤ 0xFFE) : (s.push w room).StackOk := by
  intro k hk
  have hk : k.val < s.sp.val + 1 := hk
  by_cases hsp : k.val = s.sp.val
  · rw [s.push_entry_at_sp w room hsp]
    exact ⟨hin, heven⟩
  · rw [s.push_entry_elsewhere w room hsp]
    exact h k (by omega)

theorem State.StackOk.drop {s : State} (h : s.StackOk) : s.drop.StackOk :=
  fun k hk => h k (Nat.lt_of_lt_of_le hk (Nat.sub_le _ _))

theorem State.StackOk.top_le {s : State} (h : s.StackOk) (live : 0 < s.sp.val) : (s.top live).toNat ≤ 0xFFE := by
  have hsp := s.sp.isLt
  rw [s.top_eq_entry live (k := ⟨s.sp.val - 1, by omega⟩) rfl]
  exact (h _ (Nat.sub_lt live Nat.one_pos)).1

-- The step.

theorem pc_add_le {p d : Word} (hp : p.toNat ≤ 0xFFE) (hd : d.toNat ≤ 4) : (p + d).toNat ≤ 0x1002 := by
  rw [BitVec.toNat_add]
  omega

/-- An execution at an even `pc` inside memory keeps the invariant: only a call pushes, and pushes that `pc`; only a return
takes `pc` from the stack; only `ANNN` writes `I`; everything else moves `pc` by at most 4. -/
theorem exec_keeps_inv {i : Instr} {s t : State} (h : s.Inv) (hclear : s.fault = none) (heven : s.pc.toNat % 2 = 0)
    (hin : s.pc.toNat ≤ 0xFFE) (hexec : exec i s = .next t) : t.Inv := by
  obtain ⟨hwf, hbound, -, hlive, -⟩ := id h
  have hadvance : (s.pc + 2#16).toNat ≤ 0x1002 := pc_add_le hin (by decide)
  have hnnn : ∀ nnn : Addr12, (zext16 nnn).toNat ≤ 0xFFF := fun nnn => by
    rw [zext16_toNat]
    exact Nat.le_of_lt_succ nnn.isLt
  cases effect_of_exec hexec with
  | fault hfaults => exact h.raise hfaults.ok
  | ret live =>
    have htop : (s.top live + 2#16).toNat ≤ 0x1002 := pc_add_le (hlive.top_le live) (by decide)
    exact inv_of_running hwf hbound htop hlive.drop hclear
  | jp nnn => exact h.of_samePieces rfl rfl rfl rfl (Nat.le_trans (hnnn nnn) (by decide)) hclear
  | call nnn room =>
    exact inv_of_running hwf hbound (Nat.le_trans (hnnn nnn) (by decide)) (hlive.push room heven hin) hclear
  | skip taken =>
    have hskip : (s.pc + if taken then 4#16 else 2#16).toNat ≤ 0x1002 := pc_add_le hin (by cases taken <;> decide)
    exact h.of_samePieces rfl rfl rfl rfl hskip hclear
  | ldI nnn => exact inv_of_running hwf (hnnn nnn) hadvance hlive hclear
  | add x y b flag | sub x y b flag =>
    have hpc : (s.setResultAndFlag x b flag).advance.pc.toNat ≤ 0x1002 := by
      rw [State.advance_pc, State.setResultAndFlag_pc]
      exact hadvance
    exact h.of_samePieces (by simp) (by simp) (by simp) (by simp) hpc (by simp [hclear])
  | _ => exact h.of_samePieces rfl rfl rfl rfl hadvance hclear

/-- Settles O22: a fetch fault leaves a record that fits and nothing else, and an execution follows only on a fetch from an even
`pc` inside memory. -/
theorem stepKeepsInvariant : Obligations.StepKeepsInvariant := by
  intro s t h hstep
  cases hfault : t.fault with
  | some r =>
    obtain ⟨-, hfaults, rfl⟩ := stepFaultsWith_of_step hstep hfault
    exact h.raise hfaults.ok
  | none =>
    obtain ⟨hclear, ⟨-, rfl⟩ | ⟨-, -, rfl⟩ | ⟨heven, hin, hexec⟩⟩ := step_eq_next hstep
    · cases hfault
    · cases hfault
    · exact exec_keeps_inv h hclear heven hin hexec

-- The host's operations.

theorem State.Inv.afterStep {s : State} (h : s.Inv) : s.afterStep.Inv :=
  s.afterStep_elim (fun t hstep => stepKeepsInvariant s t h hstep) h

theorem State.Inv.load {s t : State} {bytes : List Byte} (h : s.Inv) (hload : s.load bytes = some t) : t.Inv := by
  obtain ⟨hlen, rfl⟩ := State.load_eq_some.1 hload
  obtain ⟨hwf, hrest⟩ := h
  have hfit : progBase + bytes.length ≤ addrMax + 1 := by
    simp only [progBase, addrMax, romMax] at hlen ⊢
    omega
  exact ⟨Memory.wf_writeBytes hwf hfit, hrest⟩

/-- Settles O23: ticks, key writes and dirty clears write no piece the invariant speaks of, a reset gives the reset state, and a
load writes canonical memory. -/
theorem hostOperationsKeepInvariant : Obligations.HostOperationsKeepInvariant :=
  fun s h => ⟨h, fun _ _ => h, h, inv_resetWith s.cfg s.draws, fun _ _ hload => h.load hload⟩

end Sys2Proof.Machine
end

section
/-! What a program cannot observe, and O29 (10_state.md R27, R28, R30, R34). -/

namespace Sys2Proof.Machine

/-- A state with other values in the fields that a program may not observe. -/
def State.hide (s : State) (stack : Vector Word 16) (st : Byte) (dirty : Bool) (diags : List Diag) : State :=
  { s with stack := stack, st := st, dirty := dirty, diags := diags }

/-- The stack entries that are live at `s` are the same in `stack`. -/
def LiveAgree (s : State) (stack : Vector Word 16) : Prop :=
  ∀ k : Fin 16, k.val < s.sp.val → stack[k] = s.stack[k]

theorem programEquiv_hide {s : State} {stack : Vector Word 16} (hlive : LiveAgree s stack) (st : Byte) (dirty : Bool)
    (diags : List Diag) : ProgramEquiv s (s.hide stack st dirty diags) :=
  ⟨rfl, rfl, rfl, rfl, rfl, rfl, rfl, rfl, rfl, rfl, rfl, hlive⟩

/-- Two states a program cannot tell apart are one state with hidden fields of two kinds. -/
theorem ProgramEquiv.eq_hide {s t : State} (h : ProgramEquiv s t) :
    t = s.hide t.stack t.st t.dirty t.diags ∧ LiveAgree s t.stack := by
  obtain ⟨hmem, hv, hi, hpc, hsp, hdt, hdisp, hkeys, hfault, hcfg, hdraws, hlive⟩ := h
  refine ⟨?_, hlive⟩
  rw [State.hide, ← hmem, ← hv, ← hi, ← hpc, ← hsp, ← hdt, ← hdisp, ← hkeys, ← hfault, ← hcfg, ← hdraws]

/-- Two answers are next states that differ in hidden fields only. -/
def AnswersAlike (a b : Result) : Prop :=
  ∃ (s : State) (stack : Vector Word 16) (st : Byte) (dirty : Bool) (diags : List Diag),
    a = .next s ∧ b = .next (s.hide stack st dirty diags) ∧ LiveAgree s stack

section
variable {s : State} {stack : Vector Word 16} (hlive : LiveAgree s stack) (st : Byte) (dirty : Bool) (diags : List Diag)
include hlive

/-- A return takes a live entry, so the two states return to the same address. -/
theorem LiveAgree.top_hide (live : 0 < s.sp.val) : (s.hide stack st dirty diags).top live = s.top live := by
  have hsp := s.sp.isLt
  exact hlive ⟨s.sp.val - 1, by omega⟩ (Nat.sub_lt live Nat.one_pos)

theorem LiveAgree.drop : LiveAgree s.drop stack :=
  fun k hk => hlive k (Nat.lt_of_lt_of_le hk (Nat.sub_le _ _))

/-- A call pushes the same address on both stacks, and it becomes live on both. -/
theorem LiveAgree.push (w : Word) (room : s.sp.val < stackDepth) :
    LiveAgree (s.push w room) (stack.set s.sp.val w room) := by
  intro k hk
  have hk : k.val < s.sp.val + 1 := hk
  rw [State.push_entry, Fin.getElem_fin, Vector.getElem_set]
  by_cases hsp : s.sp.val = k.val
  · rw [if_pos hsp, if_pos hsp]
  · rw [if_neg hsp, if_neg hsp]
    exact hlive k (by omega)

/-- A fault's record is computed from fields that are not hidden. -/
theorem raiseFault_hide (code : Fault) (word : Option Word) (addr : Option Nat) :
    AnswersAlike (raiseFault code word addr s) (raiseFault code word addr (s.hide stack st dirty diags)) :=
  ⟨_, stack, st, dirty, diags, rfl, rfl, hlive⟩

/-- A result and a flag are written to registers alone, in an order that is not hidden. -/
theorem setResultAndFlag_hide (x : Reg) (b : Byte) (flag : Bool) :
    AnswersAlike (.next (s.setResultAndFlag x b flag).advance)
      (.next ((s.hide stack st dirty diags).setResultAndFlag x b flag).advance) := by
  have hswap : (s.hide stack st dirty diags).setResultAndFlag x b flag =
      (s.setResultAndFlag x b flag).hide stack st dirty diags := by
    have hcfg : (s.hide stack st dirty diags).cfg = s.cfg := rfl
    unfold State.setResultAndFlag
    rw [hcfg]
    cases s.cfg.vfOrder <;> rfl
  rw [hswap]
  exact ⟨_, stack, st, dirty, diags, rfl, rfl, by simpa [LiveAgree] using hlive⟩

/-- An instruction executes alike on two states that differ in hidden fields: its branch, what it writes and a record it raises
are computed from the other fields and the live entries. -/
theorem exec_hide (i : Instr) : AnswersAlike (exec i s) (exec i (s.hide stack st dirty diags)) := by
  cases i with
  | ret =>
    by_cases live : 0 < s.sp.val
    · refine ⟨_, stack, st, dirty, diags, exec_ret_live live, ?_, hlive.drop⟩
      rw [exec_ret_live (s := s.hide stack st dirty diags) live, hlive.top_hide]
      rfl
    · have hempty : s.sp.val = 0 := by omega
      rw [exec_ret_empty hempty, exec_ret_empty (s := s.hide stack st dirty diags) hempty]
      exact raiseFault_hide hlive st dirty diags _ _ _
  | call nnn =>
    by_cases room : s.sp.val < stackDepth
    · exact ⟨_, _, st, dirty, diags, exec_call_room nnn room, exec_call_room nnn (s := s.hide stack st dirty diags) room,
        hlive.push s.pc room⟩
    · have hfull := s.sp_eq_of_full room
      rw [exec_call_full nnn hfull, exec_call_full nnn (s := s.hide stack st dirty diags) hfull]
      exact raiseFault_hide hlive st dirty diags _ _ _
  | drw x y n =>
    by_cases hfits : s.SpriteFits n.toNat
    · exact ⟨_, stack, st, true, diags, exec_drw_fits x y hfits,
        exec_drw_fits x y (s := s.hide stack st dirty diags) hfits, hlive⟩
    · rw [exec_drw_outside x y hfits, exec_drw_outside x y (s := s.hide stack st dirty diags) hfits]
      exact raiseFault_hide hlive st dirty diags _ _ _
  | skp x =>
    rcases keyOf_cases (s.getV x) with ⟨k, -, hkey⟩ | ⟨-, hnone⟩
    · exact ⟨_, stack, st, dirty, diags, exec_skp_key x hkey,
        exec_skp_key x (s := s.hide stack st dirty diags) hkey, hlive⟩
    · rw [exec_skp_noKey x hnone, exec_skp_noKey x (s := s.hide stack st dirty diags) hnone]
      exact raiseFault_hide hlive st dirty diags _ _ _
  | sknp x =>
    rcases keyOf_cases (s.getV x) with ⟨k, -, hkey⟩ | ⟨-, hnone⟩
    · exact ⟨_, stack, st, dirty, diags, exec_sknp_key x hkey,
        exec_sknp_key x (s := s.hide stack st dirty diags) hkey, hlive⟩
    · rw [exec_sknp_noKey x hnone, exec_sknp_noKey x (s := s.hide stack st dirty diags) hnone]
      exact raiseFault_hide hlive st dirty diags _ _ _
  | addReg x y | subReg x y => exact setResultAndFlag_hide hlive st dirty diags x _ _
  | cls => exact ⟨_, stack, st, true, diags, rfl, rfl, hlive⟩
  | ldStVx x => exact ⟨_, stack, s.getV x, dirty, diags, rfl, rfl, hlive⟩
  | unrecognized w => exact ⟨_, stack, st, dirty, ⟨s.pc, w⟩ :: diags, rfl, rfl, hlive⟩
  | _ => exact ⟨_, stack, st, dirty, diags, rfl, rfl, hlive⟩

/-- The fetch reads memory and `pc`, which are not hidden, so both steps raise the same fetch fault or execute the same
instruction. -/
theorem step_hide (hclear : s.fault = none) : AnswersAlike (step s) (step (s.hide stack st dirty diags)) := by
  have hfetch : (s.hide stack st dirty diags).fetch = s.fetch := rfl
  rw [step_of_clear hclear, step_of_clear (s := s.hide stack st dirty diags) hclear, hfetch]
  cases s.fetch with
  | stop code addr => exact raiseFault_hide hlive st dirty diags code none addr
  | word w => exact exec_hide hlive st dirty diags (decodeWord w)

end

/-- Settles O29: the fault status is not hidden, so both steps stop with the recorded code or both go on alike. -/
theorem hiddenStateIsUnobservable : Obligations.HiddenStateIsUnobservable := by
  intro s t h
  obtain ⟨ht, hlive⟩ := h.eq_hide
  rw [ht]
  cases hfault : s.fault with
  | some r => exact .inr ⟨r.code, step_of_faulted hfault, step_of_faulted (s := s.hide _ _ _ _) hfault⟩
  | none =>
    obtain ⟨s', stack', st', dirty', diags', hs, ht', hlive'⟩ := step_hide hlive t.st t.dirty t.diags hfault
    exact .inl ⟨s', _, hs, ht', programEquiv_hide hlive' st' dirty' diags'⟩

end Sys2Proof.Machine
end

section
/-! Loads and sessions, and O24, O25, O55 and O57 to O59 (20_memory.md R58 to R61; 60_exceptions.md R215 to R217;
70_reset_and_hazards.md R240 to R247). -/

namespace Sys2Proof.Machine

-- A load.

theorem State.load_of_fits (s : State) {bytes : List Byte} (hlen : bytes.length ≤ romMax) :
    s.load bytes = some { s with mem := s.mem.writeBytes progBase bytes } :=
  State.load_eq_some.2 ⟨hlen, rfl⟩

theorem State.load_of_tooLong (s : State) {bytes : List Byte} (hlen : romMax < bytes.length) : s.load bytes = none :=
  if_neg (Nat.not_le_of_lt hlen)

theorem image_fits {bytes : List Byte} (hlen : bytes.length ≤ romMax) : progBase + bytes.length ≤ addrMax + 1 := by
  simp only [progBase, addrMax, romMax] at hlen ⊢
  omega

/-- A memory holds the image of a load and zeros: what `LOAD` leaves after reset. -/
def HoldsImage (m : Memory) (bytes : List Byte) : Prop :=
  (∀ k : Nat, (h : k < bytes.length) → m.read (0x200 + k) = bytes[k]) ∧
    ∀ a : Nat, a < 0x200 ∨ 0x200 + bytes.length ≤ a → m.read a = 0#8

theorem holdsImage_writeBytes {bytes : List Byte} (hlen : bytes.length ≤ romMax) :
    HoldsImage (Memory.writeBytes [] progBase bytes) bytes := by
  refine ⟨fun k hk => Memory.read_writeBytes_inside rfl (image_fits hlen) hk, fun a ha => ?_⟩
  rw [Memory.read_writeBytes_outside [] ha, Memory.read_nil]
  rfl

-- One operation of a session.

/-- What a completed operation leaves of a session. -/
inductive Performed (σ : Session) : Op → Session → Prop
  | reset : Performed σ .reset { block := σ.block.resetOp, phase := .fresh }
  | load {bytes : List Byte} (fresh : σ.phase = .fresh) (hlen : bytes.length ≤ romMax) :
    Performed σ (.load bytes) { block := { σ.block with mem := σ.block.mem.writeBytes progBase bytes }, phase := .loaded }
  | loadError {bytes : List Byte} (fresh : σ.phase = .fresh) (hlen : romMax < bytes.length) :
    Performed σ (.load bytes) { block := σ.block, phase := .loadFailed }
  | step (loaded : σ.phase = .loaded) : Performed σ .step { block := σ.block.afterStep, phase := .loaded }
  | tick : Performed σ .tick { σ with block := σ.block.tick }
  | keyWrite (k : Key) (level : Bool) : Performed σ (.keyWrite k level) { σ with block := σ.block.keyWrite k level }
  | dirtyClear : Performed σ .dirtyClear { σ with block := σ.block.dirtyClear }

theorem perform_load_fits {σ : Session} (fresh : σ.phase = .fresh) {bytes : List Byte} (hlen : bytes.length ≤ romMax) :
    σ.perform (.load bytes) =
      .done { block := { σ.block with mem := σ.block.mem.writeBytes progBase bytes }, phase := .loaded } .ok := by
  simp only [Session.perform, fresh, State.load_of_fits _ hlen]

theorem perform_load_tooLong {σ : Session} (fresh : σ.phase = .fresh) {bytes : List Byte} (hlen : romMax < bytes.length) :
    σ.perform (.load bytes) = .done { block := σ.block, phase := .loadFailed } .loadError := by
  simp only [Session.perform, fresh, State.load_of_tooLong _ hlen]

theorem perform_load_notFresh {σ : Session} (h : σ.phase ≠ .fresh) (bytes : List Byte) :
    σ.perform (.load bytes) = .noMove .secondLoad := by
  cases hphase : σ.phase with
  | fresh => exact absurd hphase h
  | loaded => simp only [Session.perform, hphase]
  | loadFailed => simp only [Session.perform, hphase]

theorem perform_step_loaded {σ : Session} (loaded : σ.phase = .loaded) :
    σ.perform .step = .done { block := σ.block.afterStep, phase := .loaded } (stepOutput σ.block) := by
  simp only [Session.perform, loaded]

theorem performed_of_perform {σ τ : Session} {op : Op} {out : Output} (h : σ.perform op = .done τ out) :
    Performed σ op τ := by
  cases op with
  | reset => cases h; exact .reset
  | tick => cases h; exact .tick
  | keyWrite k level => cases h; exact .keyWrite k level
  | dirtyClear => cases h; exact .dirtyClear
  | step =>
    cases hphase : σ.phase with
    | loaded =>
      rw [perform_step_loaded hphase] at h
      cases h
      exact .step hphase
    | fresh => simp [Session.perform, hphase] at h
    | loadFailed => simp [Session.perform, hphase] at h
  | load bytes =>
    by_cases fresh : σ.phase = .fresh
    · rcases Nat.lt_or_ge romMax bytes.length with hlen | hlen
      · rw [perform_load_tooLong fresh hlen] at h
        cases h
        exact .loadError fresh hlen
      · rw [perform_load_fits fresh hlen] at h
        cases h
        exact .load fresh hlen
    · rw [perform_load_notFresh fresh] at h
      cases h

-- A sequence of operations.

theorem play_cons {σ τ : Session} {op : Op} {ops : List Op} :
    σ.play (op :: ops) = some τ ↔ ∃ ρ out, σ.perform op = .done ρ out ∧ ρ.play ops = some τ := by
  rw [Session.play]
  cases σ.perform op with
  | done ρ out => simp
  | noMove why => simp

theorem play_append {σ τ : Session} {ops ops' : List Op} :
    σ.play (ops ++ ops') = some τ ↔ ∃ ρ, σ.play ops = some ρ ∧ ρ.play ops' = some τ := by
  induction ops generalizing σ with
  | nil => simp [Session.play]
  | cons op ops ih =>
    simp only [List.cons_append, play_cons, ih]
    constructor
    · rintro ⟨ρ, out, hop, π, hops, hops'⟩
      exact ⟨π, ⟨ρ, out, hop, hops⟩, hops'⟩
    · rintro ⟨π, ⟨ρ, out, hop, hops⟩, hops'⟩
      exact ⟨ρ, out, hop, π, hops, hops'⟩

/-- What each operation of a sequence keeps, the sequence keeps. -/
theorem play_keeps {P : Session → Prop} {ops : List Op}
    (keep : ∀ op ∈ ops, ∀ σ τ, P σ → Performed σ op τ → P τ) {σ τ : Session} (hσ : P σ)
    (h : σ.play ops = some τ) : P τ := by
  induction ops generalizing σ with
  | nil =>
    cases h
    exact hσ
  | cons op ops ih =>
    obtain ⟨ρ, out, hρ, hτ⟩ := play_cons.1 h
    exact ih (fun op' hop' => keep op' (List.mem_cons_of_mem op hop'))
      (keep op List.mem_cons_self σ ρ hσ (performed_of_perform hρ)) hτ

-- A step in a session.

/-- No step writes memory. -/
theorem State.afterStep_mem (s : State) : s.afterStep.mem = s.mem := by
  refine s.afterStep_elim (P := fun t => t.mem = s.mem) (fun t hstep => ?_) rfl
  obtain ⟨-, ⟨-, rfl⟩ | ⟨-, -, rfl⟩ | ⟨-, -, hexec⟩⟩ := step_eq_next hstep
  · rfl
  · rfl
  · exact (writersOfEachPieceOfState _ s t hexec).1

/-- A step writes `DT` only where it executes `FX15`. -/
theorem State.afterStep_dt {s : State}
    (h : s.fault = none → s.fetchable = true → ∀ x : Reg, decodeWord s.fetchWord ≠ .ldDtVx x) : s.afterStep.dt = s.dt := by
  refine s.afterStep_elim (P := fun t => t.dt = s.dt) (fun t hstep => ?_) rfl
  obtain ⟨hclear, ⟨-, rfl⟩ | ⟨-, -, rfl⟩ | ⟨heven, hin, hexec⟩⟩ := step_eq_next hstep
  · rfl
  · rfl
  · obtain ⟨-, -, -, -, hdt, -⟩ := writersOfEachPieceOfState _ s t hexec
    by_contra hne
    obtain ⟨x, hx⟩ := hdt hne
    exact h hclear (s.fetchable_iff.2 ⟨heven, hin⟩) x hx

-- Reachable states.

/-- The block meets the invariant and its reserved region reads 0. -/
def InBounds (σ : Session) : Prop := σ.block.Inv ∧ ∀ a : Nat, a < 0x200 → σ.block.mem.read a = 0#8

theorem performed_keeps_inBounds {σ τ : Session} {op : Op} (h : InBounds σ) (hop : Performed σ op τ) : InBounds τ := by
  obtain ⟨hinv, hzero⟩ := h
  cases hop with
  | reset => exact ⟨inv_resetWith σ.block.cfg σ.block.draws, fun _ _ => rfl⟩
  | load fresh hlen =>
    refine ⟨hinv.load (State.load_of_fits _ hlen), fun a ha => ?_⟩
    exact (Memory.read_writeBytes_outside _ (.inl ha)).trans (hzero a ha)
  | step loaded => exact ⟨hinv.afterStep, fun a ha => by rw [State.afterStep_mem, hzero a ha]⟩
  | loadError | tick | keyWrite | dirtyClear => exact ⟨hinv, hzero⟩

/-- Settles O24: the bounds and the zero region hold at creation and are kept by every operation. -/
theorem reachableStatesStayInBounds : Obligations.ReachableStatesStayInBounds := by
  rintro s ⟨c, ops, σ, hplay, rfl⟩
  have hcreated : InBounds (Session.created c) := ⟨inv_resetWith c 0, fun _ _ => rfl⟩
  obtain ⟨⟨hwf, hi, hpc, -⟩, hzero⟩ := play_keeps (fun _ _ _ _ => performed_keeps_inBounds) hcreated hplay
  exact ⟨hi, hpc, hwf, hzero⟩

-- The image of a load.

/-- Nothing writes memory between a reset and a load. -/
def EmptyWhileFresh (σ : Session) : Prop := σ.phase = .fresh → σ.block.mem = []

theorem performed_keeps_emptyWhileFresh {σ τ : Session} {op : Op} (h : EmptyWhileFresh σ) (hop : Performed σ op τ) :
    EmptyWhileFresh τ := by
  cases hop with
  | reset => exact fun _ => rfl
  | load | loadError | step => exact fun fresh => by cases fresh
  | tick | keyWrite | dirtyClear => exact h

/-- After a successful load, an operation that is not a reset leaves the phase and memory. -/
theorem performed_keeps_loaded {m : Memory} {σ τ : Session} {op : Op} (hne : op ≠ .reset)
    (h : σ.phase = .loaded ∧ σ.block.mem = m) (hop : Performed σ op τ) : τ.phase = .loaded ∧ τ.block.mem = m := by
  obtain ⟨loaded, hmem⟩ := h
  cases hop with
  | reset => exact absurd rfl hne
  | load fresh | loadError fresh => rw [loaded] at fresh; cases fresh
  | step => exact ⟨rfl, (State.afterStep_mem _).trans hmem⟩
  | tick | keyWrite | dirtyClear => exact ⟨loaded, hmem⟩

/-- Settles O25: the load finds empty memory, since it is the first after a reset, and what follows keeps what it wrote. -/
theorem memoryHoldsTheLoadedImage : Obligations.MemoryHoldsTheLoadedImage := by
  intro c before after bytes σ hreset hlen hplay
  obtain ⟨ρ, hbefore, hafter⟩ := play_append.1 hplay
  obtain ⟨π, out, hload, hafter⟩ := play_cons.1 hafter
  have hempty : EmptyWhileFresh ρ :=
    play_keeps (fun _ _ _ _ => performed_keeps_emptyWhileFresh) (fun _ => rfl) hbefore
  have hπ : π.phase = .loaded ∧ π.block.mem = Memory.writeBytes [] progBase bytes := by
    cases performed_of_perform hload with
    | load fresh _ => exact ⟨rfl, by rw [hempty fresh]⟩
    | loadError _ htooLong => exact absurd hlen (Nat.not_le_of_lt htooLong)
  have hσ := play_keeps
    (fun op hop _ _ => performed_keeps_loaded (op := op) fun heq => hreset (heq ▸ hop)) hπ hafter
  have himage := holdsImage_writeBytes hlen
  rwa [← hσ.2] at himage

-- The delay timer.

/-- One operation that is no reset and does not execute `FX15` takes 1 from the delay timer if it is a tick, and nothing
otherwise. -/
theorem performed_dt {σ τ : Session} {op : Op} (hop : Performed σ op τ) (hreset : op ≠ .reset)
    (hstep : op = .step → σ.block.fault = none → σ.block.fetchable = true →
      ∀ x : Reg, decodeWord σ.block.fetchWord ≠ .ldDtVx x) :
    τ.block.dt.toNat = σ.block.dt.toNat - [op].count .tick := by
  cases hop with
  | reset => exact absurd rfl hreset
  | tick => exact tickTimer_toNat σ.block.dt
  | step => exact congrArg BitVec.toNat (State.afterStep_dt (hstep rfl))
  | load | loadError | keyWrite | dirtyClear => rfl

/-- Settles O55, by induction on the operations: the first one takes its share, and the rest start from what it left. -/
theorem delayTimerCountsTicksNotSteps : Obligations.DelayTimerCountsTicksNotSteps := by
  intro ops
  induction ops with
  | nil =>
    intro σ τ _ _ h
    cases h
    rfl
  | cons op ops ih =>
    intro σ τ hreset hstep h
    obtain ⟨ρ, out, hρ, hτ⟩ := play_cons.1 h
    have hfirst : ρ.block.dt.toNat = σ.block.dt.toNat - [op].count .tick :=
      performed_dt (performed_of_perform hρ) (hreset op List.mem_cons_self)
        fun heq => hstep [] ops σ (by rw [heq]; rfl) rfl
    have hrest : τ.block.dt.toNat = ρ.block.dt.toNat - ops.count .tick :=
      ih ρ τ (fun op' hop' => hreset op' (List.mem_cons_of_mem op hop'))
        (fun done todo π hops hplay => hstep (op :: done) todo π (by rw [hops]; rfl)
          (play_cons.2 ⟨ρ, out, hρ, hplay⟩)) hτ
    have hcount : (op :: ops).count .tick = [op].count .tick + ops.count .tick :=
      List.count_append (l₁ := [op])
    rw [hrest, hfirst, hcount, Nat.sub_sub]

-- Load, reset and the boot duties.

/-- Settles O57: the bound on the length decides, and the bytes are written one after the other from `0x200` on. -/
theorem loadCopiesOrFails : Obligations.LoadCopiesOrFails := by
  intro s bytes hwf
  refine ⟨fun hlen => ⟨s.load_of_tooLong hlen, ?_⟩, fun hlen => ⟨_, s.load_of_fits hlen,
    Memory.wf_writeBytes hwf (image_fits hlen), fun k hk => Memory.read_writeBytes_inside hwf (image_fits hlen) hk,
    fun a ha => ?_, rfl, ?_⟩⟩
  · rintro σ rfl fresh
    exact ⟨_, perform_load_tooLong fresh hlen, rfl⟩
  · have hsame : (s.mem.writeBytes progBase bytes).read a = s.mem.read a := Memory.read_writeBytes_outside _ ha
    refine ⟨hsame, ?_⟩
    rintro c rfl
    exact hsame.trans (State.resetWith_read c a)
  · rintro σ rfl fresh
    exact ⟨_, perform_load_fits fresh hlen, rfl⟩

/-- Settles O58: `RESET` has no premise, and the state it leaves is a reset state. -/
theorem resetDiscardsAllState : Obligations.ResetDiscardsAllState :=
  fun σ => ⟨_, rfl, rfl, inv_resetWith σ.block.cfg σ.block.draws⟩

/-- Settles O59: the phase decides a step and a load, and the other operations do not ask for it. -/
theorem bootDutiesAreEnforced : Obligations.BootDutiesAreEnforced := by
  intro σ
  refine ⟨fun fresh => ?_, fun failed => ?_, fun loaded => ⟨_, _, perform_step_loaded loaded, rfl⟩,
    fun bytes h => perform_load_notFresh h bytes, fun bytes fresh => ?_, ?_⟩
  · simp only [Session.perform, fresh]
  · simp only [Session.perform, failed]
  · rcases Nat.lt_or_ge romMax bytes.length with hlen | hlen
    · exact ⟨_, _, perform_load_tooLong fresh hlen, .inr ⟨rfl, hlen⟩⟩
    · exact ⟨_, _, perform_load_fits fresh hlen, .inl ⟨rfl, hlen⟩⟩
  · rintro op (rfl | rfl | rfl | ⟨k, level, rfl⟩) <;> exact ⟨_, rfl⟩

end Sys2Proof.Machine
end

section
/-! Skips, transfers, nested calls and the run into zero memory, and O34 to O36, O50 and O53 (40_control_flow.md R108, R109,
R111; 43_keys_timers.md R170 to R172; 44_unrecognized.md R192). -/

namespace Sys2Proof.Machine

-- Skips.

theorem exec_of_skipTaken {i : Instr} {s : State} (h : s.SkipTaken i) : exec i s = .next (s.skipIf true) := by
  cases i with
  | se x nn =>
    have hx : s.getV x = nn := h
    rw [← beq_iff_eq.2 hx]
    rfl
  | sne x nn =>
    have hx : s.getV x ≠ nn := h
    rw [← bne_iff_ne.2 hx]
    rfl
  | skp x =>
    obtain ⟨k, hk, hlevel⟩ := h
    rw [exec_skp_key x (keyOf_of_val_eq hk), hlevel]
  | sknp x =>
    obtain ⟨k, hk, hlevel⟩ := h
    rw [exec_sknp_key x (keyOf_of_val_eq hk), hlevel, Bool.not_false]
  | _ => exact h.elim

/-- Whether a skip is taken does not depend on memory. -/
theorem skipTaken_withMem {i : Instr} {s : State} (h : s.SkipTaken i) (m : Memory) :
    ({ s with mem := m } : State).SkipTaken i := by
  cases i <;> exact h

/-- Settles O34: memory enters the step through the fetched word alone. -/
theorem takenSkipIgnoresTheSkippedWord : Obligations.TakenSkipIgnoresTheSkippedWord := by
  intro s m hclear hfetch htaken hhi hlo
  have hword : ({ s with mem := m } : State).fetchWord = s.fetchWord := congrArg₂ wordOfBytes hhi hlo
  rw [step_of_fetchable (s := { s with mem := m }) hclear hfetch, hword,
    exec_of_skipTaken (skipTaken_withMem htaken m)]
  rfl

theorem decodeWord_keySkip (x : Reg) (nn : Byte) :
    decodeWord (BitVec.ofNat 16 (0xE000 + nn.toNat + x.val * 0x100)) = decodeKeySkip (formatB 0xE#4 x nn) := by
  rw [Nat.add_right_comm]
  show decodeWord (formatB 0xE#4 x nn) = _
  simp [decodeWord]

/-- Settles O50: an index that names a key makes the instruction a skip on its level, any other its fault. -/
theorem keySkipsReadTheLatch : Obligations.KeySkipsReadTheLatch := by
  intro x s
  refine ⟨(decodeWord_keySkip x 0x9E#8).trans (by simp [decodeKeySkip]),
    (decodeWord_keySkip x 0xA1#8).trans (by simp [decodeKeySkip]), fun k hk => ?_, fun hlarge => ?_⟩
  · have hkey := keyOf_of_val_eq hk
    exact ⟨⟨_, exec_skp_key x hkey, registerFrame_skipIf s _, ⟨rfl, rfl⟩, s.skipIf_pc_taken, s.skipIf_pc_notTaken⟩,
      ⟨_, exec_sknp_key x hkey, registerFrame_skipIf s _, ⟨rfl, rfl⟩,
        fun hoff => s.skipIf_pc_taken (by rw [hoff, Bool.not_false]),
        fun hon => s.skipIf_pc_notTaken (by rw [hon, Bool.not_true])⟩⟩
  · exact ⟨exec_skp_noKey x (keyOf_eq_none hlarge), exec_sknp_noKey x (keyOf_eq_none hlarge)⟩

-- Transfers.

/-- Settles O35: each transfer that is not the stack's fault sets `pc` and leaves the fault status, and the next step's checks are
those of the fetch at the target. -/
theorem transferTargetsAreCheckedByTheNextFetch : Obligations.TransferTargetsAreCheckedByTheNextFetch := by
  intro s i target hclear htransfer
  have hlands : ∃ t, exec i s = .next t ∧ t.fault = none ∧ t.pc = target := by
    rcases htransfer with ⟨nnn, htarget, hi⟩ | ⟨rfl, k, hk, rfl⟩
    · have hpc : zext16 nnn = target := BitVec.eq_of_toNat_eq (by rw [zext16_toNat, htarget])
      rcases hi with rfl | ⟨rfl, room⟩
      · exact ⟨_, rfl, hclear, hpc⟩
      · exact ⟨_, exec_call_room nnn room, hclear, hpc⟩
    · have live : 0 < s.sp.val := by omega
      have htop : s.top live = s.stack[k] := s.top_eq_entry live (Nat.eq_sub_of_add_eq hk)
      exact ⟨_, exec_ret_live live, hclear, by rw [State.setPc_pc, htop]⟩
  obtain ⟨t, hexec, ht, rfl⟩ := hlands
  exact ⟨t, hexec, ht, rfl, step_of_odd ht, fun heven hout => step_of_outside ht heven (by omega)⟩

-- Nested calls.

theorem SameButStack.refl (s : State) : SameButStack s s :=
  ⟨fun _ _ => rfl, rfl, fun _ => rfl, ⟨rfl, rfl⟩, ⟨rfl, rfl⟩, ⟨rfl, rfl, rfl⟩, rfl, rfl⟩

theorem SameButStack.trans {s t u : State} (h : SameButStack s t) (h' : SameButStack t u) : SameButStack s u := by
  obtain ⟨hv, hi, hmem, ⟨hdt, hst⟩, ⟨hdisp, hdirty⟩, ⟨hkeys, hcfg, hfault⟩, hdraws, hdiags⟩ := h
  obtain ⟨hv', hi', hmem', ⟨hdt', hst'⟩, ⟨hdisp', hdirty'⟩, ⟨hkeys', hcfg', hfault'⟩, hdraws', hdiags'⟩ := h'
  exact ⟨fun r hr => (hv' r hr).trans (hv r hr), hi'.trans hi, fun a => (hmem' a).trans (hmem a),
    ⟨hdt'.trans hdt, hst'.trans hst⟩, ⟨hdisp'.trans hdisp, hdirty'.trans hdirty⟩,
    ⟨hkeys'.trans hkeys, hcfg'.trans hcfg, hfault'.trans hfault⟩, hdraws'.trans hdraws, hdiags'.trans hdiags⟩

theorem execAll_cons {i : Instr} {s t : State} (h : exec i s = .next t) (is : List Instr) :
    execAll (i :: is) s = execAll is t := by
  rw [execAll, h]

/-- Calls with room push above the entries that are live at the start and leave those. -/
theorem execAll_calls (nnns : List Addr12) {s : State} (room : s.sp.val + nnns.length ≤ 16) :
    ∃ t, execAll (nnns.map Instr.call) s = .next t ∧ t.sp.val = s.sp.val + nnns.length ∧ SameButStack s t ∧
      ∀ k : Fin 16, k.val < s.sp.val → t.stack[k] = s.stack[k] := by
  induction nnns generalizing s with
  | nil => exact ⟨s, rfl, rfl, .refl s, fun _ _ => rfl⟩
  | cons nnn nnns ih =>
    rw [List.length_cons] at room
    obtain ⟨t, hcall, -, hsp, -, hbelow, hsame⟩ := (callPushesOrOverflows nnn s).2.1 (by omega)
    obtain ⟨u, hcalls, hsp', hsame', hbelow'⟩ := ih (s := t) (by omega)
    refine ⟨u, (execAll_cons hcall _).trans hcalls, by rw [hsp', hsp, List.length_cons]; omega,
      SameButStack.trans hsame hsame', fun k hk => ?_⟩
    rw [hbelow' k (by omega), hbelow k (by omega)]

/-- Returns lower `sp`, leave the stack, and end after the address in the entry they take last. -/
theorem execAll_returns (n : Nat) {s : State} (live : n + 1 ≤ s.sp.val) :
    ∃ t, execAll (List.replicate (n + 1) Instr.ret) s = .next t ∧ t.sp.val + (n + 1) = s.sp.val ∧ t.stack = s.stack ∧
      SameButStack s t ∧ ∀ k : Fin 16, k.val = t.sp.val → t.pc = s.stack[k] + 2#16 := by
  obtain ⟨t, hret, hsp, hstack, hpc, hsame⟩ := (returnPopsOrUnderflows s).2.1 (by omega)
  rw [List.replicate_succ, execAll_cons hret]
  cases n with
  | zero => exact ⟨t, rfl, hsp, hstack, hsame, fun k hk => BitVec.eq_of_toNat_eq (by rw [hpc k hk, pc_add_two])⟩
  | succ n =>
    obtain ⟨u, hrets, hsp', hstack', hsame', hpc'⟩ := execAll_returns n (s := t) (by omega)
    exact ⟨u, hrets, by omega, hstack'.trans hstack, SameButStack.trans hsame hsame', hstack ▸ hpc'⟩

/-- Settles O36: the first call pushes its own address at the depth of the start, the others push above it, and the last return
takes that entry. -/
theorem nestedCallsAndReturnsRoundTrip : Obligations.NestedCallsAndReturnsRoundTrip := by
  intro s first more room
  obtain ⟨s₁, hcall, -, hsp₁, hpushed, hkept₁, hsame₁⟩ := (callPushesOrOverflows first s).2.1 (by omega)
  obtain ⟨t, hcalls, hspt, hsamet, hkeptt⟩ := execAll_calls more (s := s₁) (by omega)
  obtain ⟨u, hrets, hspu, hstack, hsameu, hpcu⟩ := execAll_returns more.length (s := t) (by omega)
  have hsp : u.sp = s.sp := Fin.ext (by omega)
  refine ⟨t, u, (execAll_cons hcall _).trans hcalls, by omega, fun hfull nnn => exec_call_full nnn hfull, hrets, ?_, hsp,
    fun k hk => ?_, SameButStack.trans hsame₁ (SameButStack.trans hsamet hsameu)⟩
  · have hentry : t.stack[(⟨s.sp.val, by omega⟩ : Fin 16)] = s.pc := by
      rw [hkeptt _ (by rw [hsp₁]; exact Nat.lt_succ_self _), hpushed _ rfl]
    rw [hpcu ⟨s.sp.val, by omega⟩ (by rw [hsp]), hentry]
  · rw [hstack, hkeptt k (by omega), hkept₁ k (by omega)]

-- The run into zero memory.

/-- A step at a zero word is one diagnostic and an advance. -/
theorem step_of_zeroWord {s : State} (hclear : s.fault = none) (heven : s.pc.toNat % 2 = 0) (hin : s.pc.toNat ≤ 0xFFE)
    (hzero : ∀ a : Nat, s.pc.toNat ≤ a → a ≤ 0xFFF → s.mem.read a = 0#8) :
    step s = .next { s with pc := s.pc + 2#16, diags := { pc := s.pc, word := 0#16 } :: s.diags } := by
  have hword : s.fetchWord = 0#16 := by
    rw [State.fetchWord, hzero _ (Nat.le_refl _) (by omega), hzero _ (Nat.le_succ _) (by omega)]
    rfl
  have hnoRow : NoRow s.fetchWord := by
    rw [hword]
    exact (decodeWord_eq_unrecognized_iff _).1 (by decide)
  rw [step_of_noRow hclear (s.fetchable_iff.2 ⟨heven, hin⟩) hnoRow, hword]

theorem run_succ {k : Nat} {s t : State} (h : step s = .next t) : Sys2Proof.core.run (k + 1) s = Sys2Proof.core.run k t := by
  have hcore : Sys2Proof.core.step s = .next t := h
  simp only [Host.Core.run, hcore]

/-- `k` steps over zero bytes move `pc` by `2 * k`, leave `k` diagnostics, and change nothing else. -/
theorem run_over_zeros (k : Nat) {s : State} (hclear : s.fault = none) (heven : s.pc.toNat % 2 = 0)
    (hk : s.pc.toNat + 2 * k ≤ 0x1000)
    (hzero : ∀ a : Nat, s.pc.toNat ≤ a → a ≤ 0xFFF → s.mem.read a = 0#8) :
    ∃ (pc : Word) (diags : List Diag), Sys2Proof.core.run k s = .next { s with pc := pc, diags := diags } ∧
      pc.toNat = s.pc.toNat + 2 * k ∧ diags.length = s.diags.length + k := by
  induction k generalizing s with
  | zero => exact ⟨s.pc, s.diags, rfl, rfl, rfl⟩
  | succ k ih =>
    have hstep := step_of_zeroWord hclear heven (by omega) hzero
    have hpc : (s.pc + 2#16).toNat = s.pc.toNat + 2 := by
      rw [pc_add_two]
      omega
    obtain ⟨pc, diags, hrun, hpc', hdiags⟩ :=
      ih (s := { s with pc := s.pc + 2#16, diags := { pc := s.pc, word := 0#16 } :: s.diags }) hclear
        (by rw [hpc]; omega) (by rw [hpc]; omega) (fun a ha => hzero a (by rw [hpc] at ha; omega))
    refine ⟨pc, diags, ?_, by rw [hpc', hpc]; omega, by rw [hdiags, List.length_cons]; omega⟩
    rw [run_succ hstep]
    exact hrun

/-- Settles O53: the run covers the zero bytes, and the fetch at `0x1000` is out of range. -/
theorem runningOffTheImageEndsAtTheTop : Obligations.RunningOffTheImageEndsAtTheTop := by
  intro s hclear heven htop hzero
  obtain ⟨pc, diags, hrun, hpc, hdiags⟩ :=
    run_over_zeros ((0x1000 - s.pc.toNat) / 2) hclear heven (by omega) hzero
  have hend : pc = 0x1000#16 := BitVec.eq_of_toNat_eq (by rw [hpc, BitVec.toNat_ofNat]; omega)
  subst hend
  exact ⟨_, hrun, rfl, hclear, hdiags, ⟨fun _ _ => rfl, rfl, fun _ => rfl, ⟨rfl, rfl⟩, ⟨rfl, rfl⟩, ⟨rfl, rfl⟩, rfl, rfl, rfl⟩,
    rfl,
    step_of_outside hclear (by decide : (0x1000#16 : Word).toNat % 2 = 0) (by decide : 0xFFE < (0x1000#16 : Word).toNat)⟩

end Sys2Proof.Machine
end

section
/-! The order of two register writes, the random byte and the draw, and O42, O44, O46, O47 and O49 (41_register_alu.md R122,
R133; 42_display.md R152 to R157). -/

namespace Sys2Proof.Machine

-- The order of a result and a flag.

theorem State.setV_comm (s : State) {x y : Reg} (b c : Byte) (h : x ≠ y) :
    (s.setV x b).setV y c = (s.setV y c).setV x b :=
  congrArg (fun v => ({ s with v := v } : State)) (Vector.set_comm b c fun e => h (Fin.ext e))

/-- Where the result and the flag go to two registers, the order of the writes is of no account. -/
theorem State.setResultAndFlag_of_ne (s : State) {x : Reg} (b : Byte) (flag : Bool) (hx : x ≠ flagReg) :
    s.setResultAndFlag x b flag = (s.setFlag flag).setV x b := by
  unfold State.setResultAndFlag
  cases s.cfg.vfOrder with
  | flagThenResult => rfl
  | resultThenFlag => exact s.setV_comm b (flagByte flag) hx

/-- The whole instruction, whichever order the parameter names. -/
theorem State.setResultAndFlag_otherOrder {s t : State} {x : Reg} {b : Byte} {flag : Bool} (hx : x ≠ flagReg) (c : Config)
    (h : Host.Outcome.next (s.setResultAndFlag x b flag).advance = (.next t : Result)) :
    (.next (({ s with cfg := c } : State).setResultAndFlag x b flag).advance : Result) = .next { t with cfg := c } := by
  cases h
  rw [State.setResultAndFlag_of_ne _ b flag hx, State.setResultAndFlag_of_ne _ b flag hx]
  rfl

/-- Settles O42: both instructions write a result and a flag, here to two registers. -/
theorem vfOrderMattersOnlyForVf : Obligations.VfOrderMattersOnlyForVf :=
  fun _ _ o s _ hx => ⟨State.setResultAndFlag_otherOrder hx { s.cfg with vfOrder := o },
    State.setResultAndFlag_otherOrder hx { s.cfg with vfOrder := o }⟩

-- The random byte.

/-- Settles O44: one register write, of the drawn byte masked, and the count of draws. -/
theorem randomIsDrawAndMask : Obligations.RandomIsDrawAndMask := by
  intro x nn s
  obtain ⟨hv, hpc, hframe, -⟩ := s.setV_advance x (Config.randByte s.draws &&& nn)
  exact ⟨decodeWord_encode (i := .rnd x nn) rfl, _, rfl,
    fun k => (congrArg (BitVec.getLsbD · k) hv).trans BitVec.getLsbD_and, rfl, rfl, hpc, hframe⟩

-- The draw.

/-- Settles O46: the two sums are below the buffer's size apart, so their remainders differ where the sums do. -/
theorem spritePositionsAreDistinct : Obligations.SpritePositionsAreDistinct := by
  intro x0 y0 r r' c c' hr hr' hc hc' hcolumn hrow
  have hcolumn : (x0.toNat + c) % 64 = (x0.toNat + c') % 64 := congrArg Fin.val hcolumn
  have hrow : (y0.toNat + r) % 32 = (y0.toNat + r') % 32 := congrArg Fin.val hrow
  omega

/-- The state a draw that fits leaves. -/
def State.afterDraw (s : State) (x y : Reg) (n : Nibble) : State :=
  ((s.setFlag (s.drawn x y n).hit).setDisplay (s.drawn x y n).disp).advance

/-- `VF` after a draw is its collision flag. -/
theorem State.afterDraw_getV_flagReg (s : State) (x y : Reg) (n : Nibble) :
    (s.afterDraw x y n).getV flagReg = flagByte (s.drawn x y n).hit :=
  s.getV_setFlag_self _

/-- A draw reports a collision exactly when a covered cell was on. -/
theorem State.afterDraw_collision {s : State} {x y : Reg} {n : Nibble}
    (h : ∃ cx cy, s.Covered x y n cx cy ∧ Display.cell s.disp cx cy = true) :
    (s.afterDraw x y n).getV flagReg = 1#8 := by
  rw [State.afterDraw_getV_flagReg, (drawn_spec s x y n).2.2 h]
  rfl

theorem State.afterDraw_noCollision {s : State} {x y : Reg} {n : Nibble}
    (h : ¬ ∃ cx cy, s.Covered x y n cx cy ∧ Display.cell s.disp cx cy = true) :
    (s.afterDraw x y n).getV flagReg = 0#8 := by
  rw [State.afterDraw_getV_flagReg, Bool.eq_false_of_not_eq_true (mt (drawn_spec s x y n).2.1 h)]
  rfl

/-- Settles O47: the law of the draw, cell by cell, and the frame of the writes of `VF`, the display and `pc`. -/
theorem drawTogglesTheCoveredCells : Obligations.DrawTogglesTheCoveredCells := by
  intro x y n s hfits
  obtain ⟨hcells, -⟩ := drawn_spec s x y n
  exact ⟨decodeWord_encode (i := .drw x y n) rfl, s.afterDraw x y n, exec_drw_fits x y hfits, fun cx cy => (hcells cx cy).1,
    fun cx cy => (hcells cx cy).2, State.afterDraw_collision, State.afterDraw_noCollision, rfl, pc_add_two s.pc,
    fun r hr => s.getV_setFlag_ne _ (mt List.mem_singleton.2 hr), rfl, fun _ => rfl, ⟨rfl, rfl⟩, ⟨rfl, rfl⟩, ⟨rfl, rfl, rfl⟩, rfl,
    rfl⟩

-- Two draws.

/-- A draw that leaves the coordinate registers leaves the sprite's cells: memory and `I` it leaves always. -/
theorem covered_afterDraw {s : State} {x y : Reg} {n : Nibble} (hx : (s.afterDraw x y n).getV x = s.getV x)
    (hy : (s.afterDraw x y n).getV y = s.getV y) (cx : Fin 64) (cy : Fin 32) :
    (s.afterDraw x y n).Covered x y n cx cy ↔ s.Covered x y n cx cy := by
  simp only [State.Covered, hx, hy]
  exact Iff.rfl

/-- The second draw turns the covered cells back. -/
theorem drawn_afterDraw {s : State} {x y : Reg} {n : Nibble} (hx : (s.afterDraw x y n).getV x = s.getV x)
    (hy : (s.afterDraw x y n).getV y = s.getV y) : ((s.afterDraw x y n).drawn x y n).disp = s.disp := by
  apply Display.ext_cell
  intro cx cy
  obtain ⟨honce, -⟩ := drawn_spec s x y n
  obtain ⟨htwice, -⟩ := drawn_spec (s.afterDraw x y n) x y n
  have hdisp : (s.afterDraw x y n).disp = (s.drawn x y n).disp := rfl
  by_cases hcovered : s.Covered x y n cx cy
  · rw [(htwice cx cy).1 ((covered_afterDraw hx hy cx cy).2 hcovered), hdisp, (honce cx cy).1 hcovered, Bool.not_not]
  · rw [(htwice cx cy).2 (mt (covered_afterDraw hx hy cx cy).1 hcovered), hdisp, (honce cx cy).2 hcovered]

theorem exists_spriteBit {b : Byte} (h : b ≠ 0#8) : ∃ c, c < 8 ∧ b.getLsbD (7 - c) = true := by
  by_contra hnone
  refine h (BitVec.eq_of_getLsbD_eq fun k hk => ?_)
  have hbit : b.getLsbD (7 - (7 - k)) ≠ true := fun hon => hnone ⟨7 - k, by omega, hon⟩
  rw [show 7 - (7 - k) = k by omega] at hbit
  rw [Bool.eq_false_of_not_eq_true hbit, BitVec.getLsbD_zero]

/-- A sprite with a byte that is not 0 covers a cell. -/
theorem exists_covered {s : State} (x y : Reg) {n : Nibble}
    (h : ∃ r : Nat, r < n.toNat ∧ s.mem.read (s.i.toNat + r) ≠ 0#8) : ∃ cx cy, s.Covered x y n cx cy := by
  obtain ⟨r, hr, hbyte⟩ := h
  obtain ⟨c, hc, hbit⟩ := exists_spriteBit hbyte
  exact ⟨columnOf (s.getV x) c, rowOf (s.getV y) r, r, c, hr, hc, hbit, rfl, rfl⟩

/-- Settles O49: the second draw turns back the cells the first one turned over, and on an empty buffer meets them on. -/
theorem drawingTwiceRestores : Obligations.DrawingTwiceRestores := by
  intro x y n s hfits
  refine ⟨s.afterDraw x y n, exec_drw_fits x y hfits, fun hx hy => ?_⟩
  refine ⟨(s.afterDraw x y n).afterDraw x y n, exec_drw_fits x y (s := s.afterDraw x y n) hfits, drawn_afterDraw hx hy,
    fun hblank hbyte => ⟨State.afterDraw_noCollision ?_, State.afterDraw_collision ?_⟩⟩
  · rintro ⟨cx, cy, -, hon⟩
    rw [hblank, Display.cell_blank] at hon
    cases hon
  · obtain ⟨cx, cy, hcovered⟩ := exists_covered x y hbyte
    have hdisp : (s.afterDraw x y n).disp = (s.drawn x y n).disp := rfl
    refine ⟨cx, cy, (covered_afterDraw hx hy cx cy).2 hcovered, ?_⟩
    rw [hdisp, ((drawn_spec s x y n).1 cx cy).1 hcovered, hblank, Display.cell_blank, Bool.not_false]

end Sys2Proof.Machine
end
